-- ==== Sys2Proof/Word.lean ====
section
/-! DEFINITION. The word types of the LNFE and the four-byte frame, as plain data (00_scope.md R8, 10_state.md R25). -/

namespace Sys2Proof

/-- A request word: 16 bits (30_encoding.md R70). -/
abbrev Word := BitVec 16

/-- A byte: a payload byte or a bus byte (00_scope.md R8). -/
abbrev Byte := BitVec 8

/-- A nibble: one half of a byte (00_scope.md R8 and §7). -/
abbrev Nibble := BitVec 4

/-- Four bus bytes in index order, the shape of `frame_buf[0..3]` (10_state.md R25, 20_memory.md R57). -/
structure Frame where
  b0 : Byte
  b1 : Byte
  b2 : Byte
  b3 : Byte
deriving DecidableEq, Repr

end Sys2Proof
end

