-- ==== Sys2Proof/Config.lean ====
section
/-! DEFINITION. What the spec leaves OPEN (00_scope.md R5) and the free values, none of which has a body a proof can
see. The parameters the spec gives a value stand in Machine/Params.lean. -/

namespace Sys2Proof

/-- `BUS_ADDR`, the fixed bus target address, 7 bits: OPEN (00_scope.md R5, D6; log 7). -/
opaque Config.busAddr : BitVec 7

/-- One less than `TX_TIMEOUT`, so that the timeout is a positive integer whatever this is (log 7). -/
opaque Config.txTimeoutPred : Nat

/-- `TX_TIMEOUT`, a positive number of ms: OPEN (00_scope.md R5, D7). -/
def Config.txTimeout : Nat := Config.txTimeoutPred + 1

/-- `TIME_UNIT`, the physical length of one delay unit, in whatever unit of time the platform counts: OPEN
(00_scope.md R5, D8). Nothing the block does depends on it (70_reset_and_hazards.md R224; log 7, 20). -/
opaque Config.timeUnit : Nat

/-- Free bytes: the contents of `frame_buf` where the spec leaves them unspecified (10_state.md R25; log 4). -/
opaque Config.freeByte : Nat → BitVec 8

/-- Free words: the contents of `cur` after a reset (10_state.md R24; log 4). -/
opaque Config.freeWord : Nat → BitVec 16

end Sys2Proof
end

