-- ==== Sys2Proof/Syntax.lean ====
section
/-! DEFINITION. The requests of the LNFE: one constructor per row of spec/opcode_table.json (30_encoding.md R71). -/

namespace Sys2Proof

/-- A legal request.
* `sendByte rs payload` is SENDBYTE: `rs` false sends a command, true sends data (30_encoding.md R72, R75).
* `init` is INIT, which has no operands (30_encoding.md R73).
The assembler's CMD, DATA and STR are forms of SENDBYTE (R81 to R83) and stand in Machine/Assembler.lean. -/
inductive Instr where
  | sendByte (rs : Bool) (payload : Byte)
  | init
deriving DecidableEq, Repr

end Sys2Proof
end

