-- ==== Sys2Proof/WellFormed.lean ====
section
/-! DEFINITION. Well-formedness of requests and of the operands the assembler takes before it packs them. -/

namespace Sys2Proof

/-- Every request of the type `Instr` is well formed: `rs` is one bit and "every value 0x00 to 0xFF is a legal payload
for both RS values" (30_encoding.md R75), and INIT has no operands (R73). The fields' types hold exactly the legal
operands, so there is nothing left to refuse; the checks below are for operands that are still unbounded numbers. -/
def Instr.wellFormed : Instr → Bool
  | .sendByte _ _ => true
  | .init => true

/-- The `rs` operand of the text form is `0` or `1` (30_encoding.md R80). -/
def rsOk (n : Nat) : Bool := decide (n ≤ 1)

/-- An `imm8` is within 0 to 255 (30_encoding.md R84). -/
def imm8Ok (n : Nat) : Bool := decide (n ≤ 255)

/-- An `imm16` is within 0 to 65535 (30_encoding.md R84). -/
def imm16Ok (n : Nat) : Bool := decide (n ≤ 65535)

/-- The character codes that stand for themselves in a string or character literal: 0x20 to 0x7E (30_encoding.md R84). -/
def textCharOk (n : Nat) : Bool := decide (0x20 ≤ n) && decide (n ≤ 0x7E)

end Sys2Proof
end

