-- ==== Sys2Proof/Decode.lean ====
section
/-! DEFINITION. Decoding of request words, total over the 65536 words and refusing reserved ones by name, and the
encoder, both from 30_encoding.md R70 to R76. -/

namespace Sys2Proof

/-- Why a word is reserved (30_encoding.md R76): its `OP` is neither 0x1 nor 0x2, or it is a SENDBYTE word with
`Z != 0`, or it is an `OP` = 0x2 word other than 0x2000. -/
inductive Reserved where
  | opcode (op : Nibble)
  | sendByteZ (z : BitVec 3)
  | initOperand (rest : BitVec 12)
deriving DecidableEq, Repr

/-- `OP`, bits[15:12] (30_encoding.md R70). -/
def opField (w : Word) : Nibble := w.extractLsb' 12 4

/-- `Z`, bits[11:9] of a SENDBYTE word (30_encoding.md R72). -/
def zField (w : Word) : BitVec 3 := w.extractLsb' 9 3

/-- `RS`, bit[8] of a SENDBYTE word (30_encoding.md R72, R75). -/
def rsField (w : Word) : Bool := w.getLsbD 8

/-- `PAYLOAD`, bits[7:0] of a SENDBYTE word (30_encoding.md R72, R75). -/
def payloadField (w : Word) : Byte := w.extractLsb' 0 8

/-- The operand area, bits[11:0] (30_encoding.md R70, R73). -/
def operandField (w : Word) : BitVec 12 := w.extractLsb' 0 12

/-- Which clause of 30_encoding.md R76 makes a reserved word reserved. -/
def reservedWhy (w : Word) : Reserved :=
  if opField w = 0x1#4 then .sendByteZ (zField w)
  else if opField w = 0x2#4 then .initOperand (operandField w)
  else .opcode (opField w)

/-- `decode` of 30_encoding.md R74: SENDBYTE, INIT, or RESERVED with the reason. -/
def decode (w : Word) : Except Reserved Instr :=
  if opField w = 0x1#4 ∧ zField w = 0#3 then .ok (.sendByte (rsField w) (payloadField w))
  else if w = 0x2000#16 then .ok .init
  else .error (reservedWhy w)

/-- The word of a request (30_encoding.md R72, R73, R80): `0x1000 | (rs << 8) | payload`, or 0x2000. -/
def encode : Instr → Word
  | .sendByte rs payload => 0x1000#16 ||| (BitVec.ofBool rs).zeroExtend 16 <<< 8 ||| payload.zeroExtend 16
  | .init => 0x2000#16

/-- `match` of a request's row of spec/opcode_table.json (30_encoding.md R72, R73). -/
def rowMatch : Instr → Word
  | .sendByte _ _ => 0x1000#16
  | .init => 0x2000#16

/-- `mask` of a request's row of spec/opcode_table.json (30_encoding.md R72, R73). -/
def rowMask : Instr → Word
  | .sendByte _ _ => 0xFE00#16
  | .init => 0xFFFF#16

/-- The request word whose bits are `w`, numbered as the opcode table numbers them, the bits above `nbits` zero. Every
request is one 16-bit word (30_encoding.md R70, R78), so the first word is all of it. -/
def tableWord (nbits w : Nat) : Word := BitVec.ofNat 16 (w % 2 ^ nbits)

/-- The request the decoder reads from a table word; no row is wider than one word (30_encoding.md R78). -/
def decodeTableWord (nbits w : Nat) : Option Instr :=
  if nbits ≤ 16 then (decode (tableWord nbits w)).toOption else none

end Sys2Proof
end

