-- ==== Sys2Proof/Machine/State.lean ====
section
/-! DEFINITION. The state of the LNFE as plain data (10_state.md), the inputs its external agents give it, the event log,
and the state after reset. -/

namespace Sys2Proof.Machine

/-- The phase of the block (10_state.md R21). The fourth 2-bit value never occurs and has no constructor (log 11). -/
inductive Phase where
  | uninit
  | initializing
  | ready
deriving DecidableEq, Repr

/-- The response codes that are produced (60_exceptions.md R171); 5 to 15 are never produced (log 11). -/
inductive Response where
  | ok
  | busTransportError
  | illegalRequest
  | notReady
  | alreadyInitialized
deriving DecidableEq, Repr

/-- What `BusTx` returns (00_scope.md R10, 60_exceptions.md R185). -/
inductive BusResult where
  | ok
  | fail
deriving DecidableEq, Repr

/-- The transport's answer with what it did to the display: `Ok` delivers all four bytes, `Fail` some prefix of 0 to 4
bytes (20_memory.md R59, 60_exceptions.md R185). -/
inductive BusAnswer where
  | ok
  | fail (delivered : Fin 5)
deriving DecidableEq, Repr

/-- The arguments of one `BusTx` call (00_scope.md R10, 60_exceptions.md R185). -/
structure BusCall where
  addr : BitVec 7
  frame : Frame
  stop : Bool
  timeout : Nat
deriving DecidableEq, Repr

/-- The in-flight operations of 10_state.md R40. `busTx` and `delay` are calls issued and not yet answered; `busDone` and
`delayDone` are calls answered that the request has not yet acted on, and `none` in a busy block is a request accepted and
not yet executed (log 1). -/
inductive Pending where
  | none
  | busTx
  | busDone (r : BusResult)
  | delay (units : Nat)
  | delayDone
deriving DecidableEq, Repr

/-- What an external agent does (60_exceptions.md R184, R185, R189; 70_reset_and_hazards.md R210, R212).
* `submit w`: the requester presents `w`.
* `withdraw`: the requester no longer presents the word at its port ("if still presented", R212).
* `answer a`: the transport answers the call in flight.
* `elapsed`: the timing source answers the pending `Delay`.
* `lateAnswer a`: the transport answers a call that a reset abandoned.
* `reset k`: reset is asserted; of a frame in flight, `k` bytes were delivered.
* `quiet`: no external agent acts, and the block makes its own next move (log 2). -/
inductive Input where
  | submit (w : Word)
  | withdraw
  | answer (a : BusAnswer)
  | elapsed
  | lateAnswer (a : BusAnswer)
  | reset (delivered : Fin 5)
  | quiet
deriving DecidableEq, Repr

/-- The events of 20_memory.md R64, with the bytes delivered to the display controller where there are any
(00_scope.md R7). -/
inductive Event where
  | accepted (w : Word)
  | busTx (call : BusCall)
  | busAnswer (r : BusResult) (delivered : List Byte)
  | delay (units : Nat)
  | delayAnswer
  | response (code : Response)
  | reset (delivered : List Byte)
deriving DecidableEq, Repr

/-- The state. The first eleven fields are the block's own (10_state.md); `BL` and `bus_addr` are hard-wired and have no
storage (R26, R27; `State.bl`, `State.busAddr`). The last four are the model's: the request port with the words waiting at
it, what the external agents do next (oldest first), the event log, and the count of free values drawn. -/
structure State where
  phase : Phase
  initStep : BitVec 4
  busy : Bool
  cur : Word
  frameBuf : Frame
  anyFail : Bool
  errCount : BitVec 16
  busErr : Bool
  reqErr : Bool
  lastCause : Response
  pending : Pending
  port : List Word
  agenda : List Input
  log : List Event
  draws : Nat
deriving DecidableEq, Repr

/-- Why the machine stops. Both reasons are met only in states that no run reaches (93_implementation_defined.md row 10),
so both are SAFE; `State.Inv` rules them out. -/
inductive Fault where
  /-- Raised by INIT: `init_step` is outside 1 to 10, or a transaction was answered in a step that sends none. Safe. -/
  | initSequence
  /-- Raised by SENDBYTE: it finds a delay answered, and a SENDBYTE issues no delay (40_frame_encoder.md R111). Safe. -/
  | sendByteDelay
deriving DecidableEq, Repr

/-- Why an instruction has no meaning. -/
inductive Refusal where
  /-- Raised by an arm of `exec` that has no meaning yet; no arm of this model raises it. Safe. -/
  | notModelled (mnemonic : String)
deriving DecidableEq, Repr

/-- The machine right after reset (10_state.md §6, 70_reset_and_hazards.md R210, R211). `cur` and `frame_buf` are
unspecified there and are zero here (DESIGN CHOICE, unsafe, log 5); the model's own fields start empty (log 6). -/
def State.reset : State where
  phase := .uninit
  initStep := 0#4
  busy := false
  cur := 0#16
  frameBuf := ⟨0#8, 0#8, 0#8, 0#8⟩
  anyFail := false
  errCount := 0#16
  busErr := false
  reqErr := false
  lastCause := .ok
  pending := .none
  port := []
  agenda := []
  log := []
  draws := 0

end Sys2Proof.Machine
end

