-- ==== Sys2Proof/Machine/Params.lean ====
section
/-! DEFINITION. The parameters of 00_scope.md R5 whose value the spec fixes, and the command constants of
41_init_sequencer.md R130. -/

namespace Sys2Proof.Machine

/-- `FRAME_LEN`, bytes per frame (00_scope.md R5, 20_memory.md R57). -/
def frameLen : Nat := 4

/-- `RS_MASK` (00_scope.md R5, D2; log 8). -/
def rsMask : Byte := 0x01#8

/-- `RW_MASK` (00_scope.md R5, D3; log 8). -/
def rwMask : Byte := 0x02#8

/-- `EN_MASK` (00_scope.md R5, D2; log 8). -/
def enMask : Byte := 0x04#8

/-- `BL_MASK` (00_scope.md R5, D2; log 8). -/
def blMask : Byte := 0x08#8

/-- `BL_ON`, the backlight flag: constant 1 (00_scope.md R5, 10_state.md R26). -/
def blOn : Bool := true

/-- `STOP_AFTER`, the `stopAfter` argument of every transport call (00_scope.md R5, D7). -/
def stopAfter : Bool := true

/-- `FUNCTION_SET` (41_init_sequencer.md R130, D5; log 9). -/
def cmdFunctionSet : Byte := 0x20#8

/-- `DISPLAY_CONTROL` (41_init_sequencer.md R130, D5; log 9). -/
def cmdDisplayControl : Byte := 0x08#8

/-- `CLEAR_DISPLAY` (41_init_sequencer.md R130, D5; log 9). -/
def cmdClearDisplay : Byte := 0x01#8

/-- `ENTRY_MODE_SET` (41_init_sequencer.md R130, D5; log 9). -/
def cmdEntryModeSet : Byte := 0x04#8

/-- `RETURN_HOME` (41_init_sequencer.md R130, D5; log 9). -/
def cmdReturnHome : Byte := 0x02#8

end Sys2Proof.Machine
end

