-- ==== Sys2Proof/Machine/Operands.lean ====
section
/-! DEFINITION. The operand forms of the block: the two nibbles of a payload byte, the bus byte and the frame
(30_encoding.md R75, R79; 40_frame_encoder.md R100 to R104), and the frame's inverse (R109). -/

namespace Sys2Proof.Machine

/-- `b[7:4]` (00_scope.md §7). -/
def highNibble (b : Byte) : Nibble := b.extractLsb' 4 4

/-- `b[3:0]` (00_scope.md §7). -/
def lowNibble (b : Byte) : Nibble := b.extractLsb' 0 4

/-- `(c ? mask : 0x00)` (00_scope.md R9). -/
def flagBits (c : Bool) (mask : Byte) : Byte := if c then mask else 0x00#8

/-- `frameByte` of 40_frame_encoder.md R100; RW is never set (D3). -/
def frameByte (nibble : Nibble) (rs bl en : Bool) : Byte :=
  nibble.zeroExtend 8 <<< 4 ||| flagBits rs rsMask ||| flagBits bl blMask ||| flagBits en enMask

/-- `Frame(b, rs)` of 40_frame_encoder.md R101: high-active, high-inactive, low-active, low-inactive. -/
def frameOf (b : Byte) (rs : Bool) : Frame where
  b0 := frameByte (highNibble b) rs blOn true
  b1 := frameByte (highNibble b) rs blOn false
  b2 := frameByte (lowNibble b) rs blOn true
  b3 := frameByte (lowNibble b) rs blOn false

/-- The bytes of a frame in transmission order (20_memory.md R52). -/
def frameBytes (f : Frame) : List Byte := [f.b0, f.b1, f.b2, f.b3]

/-- The payload a frame carries: `(f[0] & 0xF0) | (f[2] >> 4)` (40_frame_encoder.md R109). -/
def framePayload (f : Frame) : Byte := f.b0 &&& 0xF0#8 ||| f.b2 >>> 4

/-- The register select a frame carries: `f[0] & RS_MASK != 0` (40_frame_encoder.md R109). -/
def frameRs (f : Frame) : Bool := decide (f.b0 &&& rsMask ≠ 0#8)

/-- What the transport's answer says to the block (60_exceptions.md R185). -/
def answerResult : BusAnswer → BusResult
  | .ok => .ok
  | .fail _ => .fail

/-- The bytes of the frame in flight that an answer says were delivered, in index order (20_memory.md R59). -/
def deliveredBytes (a : BusAnswer) (f : Frame) : List Byte :=
  match a with
  | .ok => frameBytes f
  | .fail k => (frameBytes f).take k.val

end Sys2Proof.Machine
end

