-- ==== Sys2Proof/Machine/Flags.lean ====
section
/-! DEFINITION. The recorded flags and codes and the read-only status port (10_state.md R21, R26, R27, R30 to R37;
60_exceptions.md R171, R173). -/

namespace Sys2Proof.Machine

/-- The number of a response code (60_exceptions.md R171). -/
def responseCode : Response → BitVec 4
  | .ok => 0#4
  | .busTransportError => 1#4
  | .illegalRequest => 2#4
  | .notReady => 3#4
  | .alreadyInitialized => 4#4

/-- The codes 2, 3 and 4, which set `req_err` (60_exceptions.md R170, R177). -/
def refusesRequest : Response → Bool
  | .ok => false
  | .busTransportError => false
  | .illegalRequest => true
  | .notReady => true
  | .alreadyInitialized => true

/-- The number of a phase (10_state.md R21). -/
def phaseCode : Phase → BitVec 2
  | .uninit => 0#2
  | .initializing => 1#2
  | .ready => 2#2

/-- `min(n + 1, 0xFFFF)`, the saturating increment of `err_count` (60_exceptions.md R173). -/
def saturatingIncrement (n : BitVec 16) : BitVec 16 := BitVec.ofNat 16 (min (n.toNat + 1) 0xFFFF)

/-- The response of a SENDBYTE whose transaction was answered `r` (40_frame_encoder.md R105). -/
def transactionResponse : BusResult → Response
  | .ok => .ok
  | .fail => .busTransportError

/-- Whether an answer is a failure. -/
def isFailure : BusResult → Bool
  | .ok => false
  | .fail => true

/-- `BL`, hard-wired to 1 whatever the state (10_state.md R26). -/
def State.bl (_s : State) : Bool := blOn

/-- `bus_addr`, the constant `BUS_ADDR` whatever the state (10_state.md R27). -/
def State.busAddr (_s : State) : BitVec 7 := Config.busAddr

/-- `STATUS` (10_state.md R33), most significant field first. -/
def statusWord (s : State) : Word :=
  0#2 ++ responseCode s.lastCause ++ BitVec.ofBool s.reqErr ++ BitVec.ofBool s.busErr ++ BitVec.ofBool s.bl
    ++ s.initStep ++ BitVec.ofBool s.busy ++ phaseCode s.phase

/-- `CONFIG`, `zext_16(BUS_ADDR)` (10_state.md R35). -/
def configWord (s : State) : Word := s.busAddr.zeroExtend 16

/-- The status port: index 0 STATUS, 1 ERR_COUNT, 2 CONFIG, 3 reads 0x0000. Reading is a function of the state, so it has
no side effect (10_state.md R32 to R35, 20_memory.md R61). -/
def statusPort (s : State) (index : BitVec 2) : Word :=
  if index = 0#2 then statusWord s
  else if index = 1#2 then s.errCount
  else if index = 2#2 then configWord s
  else 0x0000#16

end Sys2Proof.Machine
end

