-- ==== Sys2Proof/Machine/Ops.lean ====
section
/-! DEFINITION. The named operations of the block over its state: acceptance, the transaction and delay primitives and
their answers, the records of a failure, the response (which is how an error is taken: 60_exceptions.md R170, R179), and
reset. -/

namespace Sys2Proof.Machine

/-- Append an event to the log (20_memory.md R64). -/
def logged (e : Event) (s : State) : State := { s with log := s.log ++ [e] }

/-- What INIT writes before its first call: `phase <- INITIALIZING`, `any_fail <- 0`, `init_step <- 1` (41_init_sequencer.md
R132). -/
def enterSequence (s : State) : State := { s with phase := .initializing, anyFail := false, initStep := 1#4 }

/-- Whether the acceptance of `w` starts the sequence: it is an INIT, in UNINIT (10_state.md R21, 30_encoding.md R74). -/
def startsSequence (w : Word) (p : Phase) : Bool :=
  match decode w with
  | .ok .init => decide (p = .uninit)
  | .ok (.sendByte _ _) => false
  | .error _ => false

/-- What the acceptance of `w` itself does to the sequencer: an INIT accepted in UNINIT enters INITIALIZING (10_state.md R21),
and so step 1 (R22). Every other word writes nothing before its first call or its response. -/
def enter (w : Word) (s : State) : State := if startsSequence w s.phase then enterSequence s else s

/-- `Accept(w)` (60_exceptions.md R186): latch the word, become busy, and run `Execute` up to its first call or response,
which is the block's next event (20_memory.md R64; log 1). -/
def accept (w : Word) (s : State) : State :=
  logged (.accepted w) (enter w { s with cur := w, busy := true, pending := .none })

/-- `Respond(code)` (60_exceptions.md R170). This is also how every cause is raised (00_scope.md R10 `raise`): the block
has no trap, so an error is its records and its response code and nothing else (R179). -/
def respond (code : Response) (s : State) : State :=
  logged (.response code)
    { s with
      lastCause := code
      reqErr := s.reqErr || refusesRequest code
      busy := false
      pending := .none }

/-- `RecordBusError` (60_exceptions.md R173). -/
def recordBusError (s : State) : State :=
  { s with busErr := true, errCount := saturatingIncrement s.errCount }

/-- The one form of a transport call: `BusTx(BUS_ADDR, frame, STOP_AFTER, TX_TIMEOUT)` (40_frame_encoder.md R106,
60_exceptions.md R185). -/
def busCall (f : Frame) : BusCall where
  addr := Config.busAddr
  frame := f
  stop := stopAfter
  timeout := Config.txTimeout

/-- `SendFrame(b, rs)` up to its call of the transport (40_frame_encoder.md R106): write `frame_buf`, issue one call. -/
def sendFrame (b : Byte) (rs : Bool) (s : State) : State :=
  logged (.busTx (busCall (frameOf b rs))) { s with frameBuf := frameOf b rs, pending := .busTx }

/-- Issue `Delay(n)` (41_init_sequencer.md R144). -/
def issueDelay (n : Nat) (s : State) : State :=
  logged (.delay n) { s with pending := .delay n }

/-- The frame whose bytes are the free values from number `n` on (log 4). -/
def freeFrame (n : Nat) : Frame :=
  ⟨Config.freeByte n, Config.freeByte (n + 1), Config.freeByte (n + 2), Config.freeByte (n + 3)⟩

/-- Between transactions the contents of `frame_buf` are unspecified (10_state.md R25): a free value (log 4). -/
def releaseFrame (s : State) : State := { s with frameBuf := freeFrame s.draws, draws := s.draws + 4 }

/-- `SendFrame` from the transport's answer on (40_frame_encoder.md R106, R107): deliver what was delivered, record a
failure, keep the result for the request, and do nothing else with it. -/
def busAnswered (a : BusAnswer) (s : State) : State :=
  let answered :=
    logged (.busAnswer (answerResult a) (deliveredBytes a s.frameBuf))
      { s with pending := .busDone (answerResult a) }
  releaseFrame (if isFailure (answerResult a) then recordBusError answered else answered)

/-- The timing source's answer to the pending delay (60_exceptions.md R184). -/
def delayAnswered (s : State) : State := logged .delayAnswer { s with pending := .delayDone }

/-- The bytes of a frame in flight that were delivered when a reset abandoned it (70_reset_and_hazards.md R212). -/
def abandonedBytes (k : Fin 5) (s : State) : List Byte :=
  match s.pending with
  | .busTx => (frameBytes s.frameBuf).take k.val
  | .none => []
  | .busDone _ => []
  | .delay _ => []
  | .delayDone => []

/-- Reset (70_reset_and_hazards.md R210, R212): every element of the block at its reset value, whatever was running
abandoned without a response, `cur` and `frame_buf` unspecified (free values, log 4). The words the requester presents
stay its own, and what the other agents do next is theirs. DESIGN CHOICE (log 22): the bytes of the abandoned frame all
stand in the reset's own log entry, before every later event; the spec says only that an unknown prefix is delivered. -/
def takeReset (k : Fin 5) (s : State) : State :=
  { State.reset with
    cur := Config.freeWord s.draws
    frameBuf := freeFrame s.draws
    port := s.port
    agenda := s.agenda
    log := s.log ++ [.reset (abandonedBytes k s)]
    draws := s.draws + 4 }

/-- Whether the next thing to happen is a reset, which takes precedence over everything (60_exceptions.md R178(d)). -/
def resetNext (s : State) : Bool :=
  match s.agenda with
  | .reset _ :: _ => true
  | _ => false

/-- Whether no external agent acts next, so that the block makes its own move (log 2). -/
def blockTurn (s : State) : Bool :=
  match s.agenda with
  | [] => true
  | .quiet :: _ => true
  | _ => false

/-- The moment of the block's own move, if the agenda holds one, is over (log 2). -/
def passMoment (s : State) : State := { s with agenda := s.agenda.tail }

/-- Whether a call is issued and not yet answered; the block does nothing until it is (60_exceptions.md R190). -/
def awaiting : Pending → Bool
  | .none => false
  | .busTx => true
  | .busDone _ => false
  | .delay _ => true
  | .delayDone => false

/-- One input takes effect. An answer meets the call in flight; an answer to a call that is no longer in flight is
discarded and records nothing (70_reset_and_hazards.md R212; log 13). A submitted word waits at the port (60_exceptions.md
R186) until it is accepted or the requester no longer presents it (70 R212; log 14). `quiet` itself changes nothing. -/
def takeInput (i : Input) (s : State) : State :=
  match i with
  | .submit w => { s with port := s.port ++ [w] }
  | .withdraw => { s with port := s.port.tail }
  | .answer a =>
    match s.pending with
    | .busTx => busAnswered a s
    | _ => s
  | .elapsed =>
    match s.pending with
    | .delay _ => delayAnswered s
    | _ => s
  | .lateAnswer _ => s
  | .reset k => takeReset k s
  | .quiet => s

/-- The oldest input of the agenda takes effect; with no input left nothing happens (log 3). -/
def arrive (s : State) : State :=
  match s.agenda with
  | [] => s
  | i :: rest => takeInput i { s with agenda := rest }

/-- `w` accepted, for the host's `withFetchWord` (log 16): a request in progress is set aside, and where an external agent
would act next the block moves first, so that the next move runs `w`. On an idle block whose turn it is it is acceptance
alone. -/
def presentFirst (w : Word) (s : State) : State :=
  accept w
    { s with
      phase := if s.phase = .initializing then .uninit else s.phase
      initStep := if s.phase = .initializing then 0#4 else s.initStep
      agenda := if blockTurn s then s.agenda else .quiet :: s.agenda }

end Sys2Proof.Machine
end

