-- ==== Sys2Proof/Machine/Init.lean ====
section
/-! DEFINITION. The initialization sequencer and the meaning of INIT (41_init_sequencer.md R130 to R150). -/

namespace Sys2Proof.Machine

/-- What one init step does (41_init_sequencer.md R133 to R142): step 1 only waits; every other step sends one frame with
RS = 0 and then waits `wait` units, 0 meaning that it issues no delay (R144). -/
inductive InitStep where
  | waitOnly (wait : Nat)
  | send (payload : Byte) (wait : Nat)
deriving DecidableEq, Repr

/-- The ten steps (41_init_sequencer.md R133 to R142, 00_scope.md R5 `INIT_WAIT`; log 9, 10). -/
def initTable (k : BitVec 4) : Option InitStep :=
  if k = 1#4 then some (.waitOnly 50)
  else if k = 2#4 then some (.send 0x30#8 5)
  else if k = 3#4 then some (.send 0x30#8 1)
  else if k = 4#4 then some (.send 0x30#8 1)
  else if k = 5#4 then some (.send 0x20#8 1)
  else if k = 6#4 then some (.send (cmdFunctionSet ||| 0x08#8) 0)
  else if k = 7#4 then some (.send (cmdDisplayControl ||| 0x04#8) 0)
  else if k = 8#4 then some (.send cmdClearDisplay 2)
  else if k = 9#4 then some (.send (cmdEntryModeSet ||| 0x02#8) 0)
  else if k = 10#4 then some (.send cmdReturnHome 0)
  else none

/-- Begin step `k`: `reg.init_step <- k`, then its first call (41_init_sequencer.md R132). The init steps call the frame
primitive directly, with no phase check (90_conflicts.md C3). -/
def beginInitStep (k : BitVec 4) (s : State) : Host.Outcome State Fault Refusal :=
  match initTable k with
  | some (.waitOnly n) => .next (issueDelay n { s with initStep := k })
  | some (.send payload _) => .next (sendFrame payload false { s with initStep := k })
  | none => .fault .initSequence

/-- `Complete` (41_init_sequencer.md R143). -/
def completeInit (s : State) : State :=
  respond (if s.anyFail then .busTransportError else .ok) { s with initStep := 0#4, phase := .ready }

/-- Leave the current step: completion after step 10, else the next step (41_init_sequencer.md R132, R143; 10_state.md
R38). -/
def finishInitStep (s : State) : Host.Outcome State Fault Refusal :=
  if s.initStep = 10#4 then .next (completeInit s) else beginInitStep (s.initStep + 1#4) s

/-- `Send`'s record of a failure in `any_fail` (41_init_sequencer.md R132). -/
def noteFailure (r : BusResult) (s : State) : State := { s with anyFail := s.anyFail || isFailure r }

/-- After the transaction of the current step: its wait, whether the answer was Ok or Fail; a step whose wait is 0 issues
no delay (41_init_sequencer.md R144, R145). -/
def afterInitSend (r : BusResult) (s : State) : Host.Outcome State Fault Refusal :=
  match initTable s.initStep with
  | some (.send _ n) =>
    if n = 0 then finishInitStep (noteFailure r s) else .next (issueDelay n (noteFailure r s))
  | some (.waitOnly _) => .fault .initSequence
  | none => .fault .initSequence

/-- Start the sequence: `phase <- INITIALIZING`, `any_fail <- 0`, step 1 (41_init_sequencer.md R132). An accepted INIT has
entered it already, and entering again writes the same. -/
def startInit (s : State) : Host.Outcome State Fault Refusal := beginInitStep 1#4 (enterSequence s)

/-- The next move of an INIT (41_init_sequencer.md R132, 30_encoding.md R74).
* At its start: `ALREADY_INITIALIZED` in READY (60_exceptions.md R176), else the sequence starts (log 12).
* A transaction or a delay of the sequence answered: the sequence goes on.
* A call not answered: the block stays where it is (60_exceptions.md R190). -/
def execInit (s : State) : Host.Outcome State Fault Refusal :=
  match s.pending with
  | .none =>
    if s.phase = .ready then .next (respond .alreadyInitialized s)
    else startInit s
  | .busDone r => afterInitSend r s
  | .delayDone => finishInitStep s
  | .busTx => .next s
  | .delay _ => .next s

end Sys2Proof.Machine
end

