-- ==== Sys2Proof/Machine/SendByte.lean ====
section
/-! DEFINITION. The meaning of SENDBYTE (40_frame_encoder.md R105). -/

namespace Sys2Proof.Machine

/-- The next move of a SENDBYTE (40_frame_encoder.md R105, 30_encoding.md R74).
* At its start: `NOT_READY` in UNINIT (60_exceptions.md R175), else the one transaction of its frame.
* Its transaction answered: the response, 0 or 1.
* A call not answered: the block stays where it is (60_exceptions.md R190).
A SENDBYTE issues no delay (R111), so one that is answered here has no source (`Fault.sendByteDelay`). -/
def execSendByte (rs : Bool) (payload : Byte) (s : State) : Host.Outcome State Fault Refusal :=
  match s.pending with
  | .none =>
    if s.phase = .uninit then .next (respond .notReady s)
    else .next (sendFrame payload rs s)
  | .busDone r => .next (respond (transactionResponse r) s)
  | .busTx => .next s
  | .delay _ => .next s
  | .delayDone => .fault .sendByteDelay

end Sys2Proof.Machine
end

