-- ==== Sys2Proof/Machine/Dispatch.lean ====
section
/-! DEFINITION. One arm per request of spec/opcode_table.json. -/

namespace Sys2Proof.Machine

def exec (i : Instr) (s : State) : Host.Outcome State Fault Refusal :=
  match i with
  | .sendByte rs payload => Sys2Proof.Machine.execSendByte rs payload s
  | .init => Sys2Proof.Machine.execInit s

end Sys2Proof.Machine
end

