-- ==== Sys2Proof/Machine/Advance.lean ====
section
/-! DEFINITION. How the block moves: `Execute` (30_encoding.md R74), acceptance (60_exceptions.md R186), the next move of a
request that is not waiting for an answer, and whose turn it is, the block's or an external agent's. -/

namespace Sys2Proof.Machine

/-- `Execute(w)` (30_encoding.md R74): a reserved word is ILLEGAL_REQUEST whatever the phase (60_exceptions.md R174,
R178(a)); a legal one runs. Each later move of the request comes through here too, from the word latched in `cur` (10_state.md
R24). -/
def execute (w : Word) (s : State) : Host.Outcome State Fault Refusal :=
  match decode w with
  | .ok i => exec i s
  | .error _ => .next (respond .illegalRequest s)

/-- The block's own next move. A request in progress makes its next move, and waits while a call of it is not answered
(60_exceptions.md R190). An idle block accepts the word at its port (R186), and with none does nothing
(70_reset_and_hazards.md R211). -/
def ownMove (s : State) : Host.Outcome State Fault Refusal :=
  if s.busy then
    if awaiting s.pending then .next s else execute s.cur s
  else
    match s.port with
    | w :: rest => .next (accept w { s with port := rest })
    | [] => .next s

/-- The next event (20_memory.md R64; log 1). Where an external agent acts next, its input takes effect, whatever the block
could do: a reset at any time (70_reset_and_hazards.md R210; 60_exceptions.md R178(d)). Else the block makes its own move.
The agenda alone decides which, so every interleaving is some agenda (log 2). -/
def advance (s : State) : Host.Outcome State Fault Refusal :=
  if blockTurn s then ownMove (passMoment s) else .next (arrive s)

end Sys2Proof.Machine
end

