-- ==== Sys2Proof/Machine/Step.lean ====
section
/-! DEFINITION. One step of the machine, and the host's way to have a given request word run next. -/

namespace Sys2Proof.Machine

/-- One step: the block's next event (Machine/Advance.lean; log 1). -/
def step (s : State) : Host.Outcome State Fault Refusal := Sys2Proof.Machine.advance s

/-- `s` with the request word of a table row accepted, so that the very next step runs it (log 16). -/
def State.withFetchWord (s : State) (nbits w : Nat) : State := presentFirst (tableWord nbits w) s

end Sys2Proof.Machine
end

