-- ==== Sys2Proof/Machine/Assembler.lean ====
section
/-! DEFINITION. The assembler of 30_encoding.md R80 to R84: the statements, their words, and the text form. The block
itself never sees text (R83, R84; D22, D27). -/

namespace Sys2Proof.Machine

/-- The statements of 30_encoding.md R80 with their immediates evaluated. -/
inductive Stmt where
  | sendByte (rs imm : Nat)
  | init
  | cmd (imm : Nat)
  | data (imm : Nat)
  | str (text : List Byte)
  | word (imm : Nat)
deriving DecidableEq, Repr

/-- Why the assembler refuses a line (30_encoding.md R80, R84). -/
inductive AsmError where
  | rsRange (v : Nat)
  | immRange (v : Nat)
  | character (c : Char)
  | escape
  | unterminated
  | number
  | symbol
  | mnemonic
  | operands
deriving DecidableEq, Repr

/-- `SENDBYTE rs, imm8` (30_encoding.md R80). -/
def sendByteWords (rs imm : Nat) : Except AsmError (List Word) :=
  if rsOk rs then
    if imm8Ok imm then .ok [encode (.sendByte (decide (rs = 1)) (BitVec.ofNat 8 imm))]
    else .error (.immRange imm)
  else .error (.rsRange rs)

/-- The word of `DATA c` for one character of a string (30_encoding.md R82, R83). -/
def dataWord (c : Byte) : Word := encode (.sendByte true c)

/-- The words of one statement: CMD and DATA are SENDBYTE with `rs` 0 and 1 (30_encoding.md R81, R82), STR is one DATA per
character and no terminator (R83), `.word` is the value as it stands (R80). -/
def assembleStmt : Stmt → Except AsmError (List Word)
  | .sendByte rs imm => sendByteWords rs imm
  | .init => .ok [encode .init]
  | .cmd imm => sendByteWords 0 imm
  | .data imm => sendByteWords 1 imm
  | .str text => .ok (text.map dataWord)
  | .word imm => if imm16Ok imm then .ok [BitVec.ofNat 16 imm] else .error (.immRange imm)

/-- The words of a program, in order. -/
def assembleStmts : List Stmt → Except AsmError (List Word)
  | [] => .ok []
  | s :: rest =>
    match assembleStmt s, assembleStmts rest with
    | .ok ws, .ok ws' => .ok (ws ++ ws')
    | .error e, _ => .error e
    | .ok _, .error e => .error e

/-- The tokens of a line. -/
inductive Token where
  | name (cs : List Char)
  | num (n : Nat)
  | chr (b : Byte)
  | str (bs : List Byte)
  | comma
  | bar
deriving DecidableEq, Repr

/-- The value of a hexadecimal digit. -/
def hexDigit (c : Char) : Option Nat :=
  let n := c.toNat
  if 0x30 ≤ n ∧ n ≤ 0x39 then some (n - 0x30)
  else if 0x41 ≤ n ∧ n ≤ 0x46 then some (n - 0x41 + 10)
  else if 0x61 ≤ n ∧ n ≤ 0x66 then some (n - 0x61 + 10)
  else none

/-- The value of a decimal digit. -/
def decDigit (c : Char) : Option Nat :=
  let n := c.toNat
  if 0x30 ≤ n ∧ n ≤ 0x39 then some (n - 0x30) else none

/-- The value of a row of digits in a base, `acc` being the value of the digits before. -/
def digitsValue (digit : Char → Option Nat) (base : Nat) : Nat → List Char → Option Nat
  | acc, [] => some acc
  | acc, c :: cs =>
    match digit c with
    | some d => digitsValue digit base (acc * base + d) cs
    | none => none

/-- A numeric literal: `0x` and hexadecimal digits, or decimal digits (30_encoding.md R84). -/
def numberValue (cs : List Char) : Option Nat :=
  match cs with
  | [] => none
  | ['0', 'x'] => none
  | '0' :: 'x' :: hex => digitsValue hexDigit 16 0 hex
  | dec => digitsValue decDigit 10 0 dec

/-- A letter in capitals; other characters stay. -/
def upperChar (c : Char) : Char :=
  let n := c.toNat
  if 0x61 ≤ n ∧ n ≤ 0x7A then Char.ofNat (n - 0x20) else c

/-- The characters of names, of mnemonics (`.word` among them) and of numbers. -/
def wordChar (c : Char) : Bool :=
  let n := c.toNat
  (decDigit c).isSome || (decide (0x41 ≤ n) && decide (n ≤ 0x5A)) || (decide (0x61 ≤ n) && decide (n ≤ 0x7A))
    || c == '_' || c == '.'

/-- The inside of a string or character literal up to its closing quote `q`, and what follows (30_encoding.md R84).
DESIGN CHOICE (log 19): R84 gives a raw character outside 0x20 to 0x7E no value, and does not say what a backslash that starts
none of its four escapes is (such as `\n`); a line that holds either inside quotes is refused. -/
def lexQuoted (q : Char) : List Char → Except AsmError (List Byte × List Char)
  | [] => .error .unterminated
  | c :: cs =>
    if c = q then .ok ([], cs)
    else if c = '\\' then
      match cs with
      | e :: rest =>
        if e = 'x' then
          match rest with
          | a :: b :: rest' =>
            match hexDigit a, hexDigit b with
            | some x, some y =>
              match lexQuoted q rest' with
              | .ok (bs, after) => .ok (BitVec.ofNat 8 (x * 16 + y) :: bs, after)
              | .error err => .error err
            | _, _ => .error .escape
          | _ => .error .escape
        else if e = '"' ∨ e = '\'' ∨ e = '\\' then
          match lexQuoted q rest with
          | .ok (bs, after) => .ok (BitVec.ofNat 8 e.toNat :: bs, after)
          | .error err => .error err
        else .error .escape
      | [] => .error .unterminated
    else if textCharOk c.toNat then
      match lexQuoted q cs with
      | .ok (bs, after) => .ok (BitVec.ofNat 8 c.toNat :: bs, after)
      | .error err => .error err
    else .error (.character c)

/-- The tokens of a line, up to a `;` outside quotes (30_encoding.md R80). Every call but the last takes at least one
character, so a `fuel` above the line's length never runs out. -/
def lexLine : Nat → List Char → Except AsmError (List Token)
  | 0, _ => .ok []
  | _ + 1, [] => .ok []
  | fuel + 1, c :: cs =>
    let next (t : Token) (rest : List Char) : Except AsmError (List Token) :=
      match lexLine fuel rest with
      | .ok ts => .ok (t :: ts)
      | .error e => .error e
    if c = ' ' ∨ c = '\t' ∨ c = '\r' then lexLine fuel cs
    else if c = ';' then .ok []
    else if c = ',' then next .comma cs
    else if c = '|' then next .bar cs
    else if c = '"' then
      match lexQuoted '"' cs with
      | .ok (bs, rest) => next (.str bs) rest
      | .error e => .error e
    else if c = '\'' then
      match lexQuoted '\'' cs with
      | .ok ([b], rest) => next (.chr b) rest
      | .ok _ => .error .operands
      | .error e => .error e
    else if wordChar c then
      let lexeme := (c :: cs).takeWhile wordChar
      let rest := (c :: cs).dropWhile wordChar
      if (decDigit c).isSome then
        match numberValue lexeme with
        | some n => next (.num n) rest
        | none => .error .number
      else next (.name lexeme) rest
    else .error (.character c)

/-- The command symbols of 41_init_sequencer.md R130, written as the spec writes them (log 19). -/
def symbolValue (cs : List Char) : Option Byte :=
  if cs = ['F','U','N','C','T','I','O','N','_','S','E','T'] then some cmdFunctionSet
  else if cs = ['D','I','S','P','L','A','Y','_','C','O','N','T','R','O','L'] then some cmdDisplayControl
  else if cs = ['C','L','E','A','R','_','D','I','S','P','L','A','Y'] then some cmdClearDisplay
  else if cs = ['E','N','T','R','Y','_','M','O','D','E','_','S','E','T'] then some cmdEntryModeSet
  else if cs = ['R','E','T','U','R','N','_','H','O','M','E'] then some cmdReturnHome
  else none

/-- One term of an `imm8` (30_encoding.md R84). -/
def termValue : Token → Except AsmError Nat
  | .num n => .ok n
  | .chr b => .ok b.toNat
  | .name cs =>
    match symbolValue cs with
    | some b => .ok b.toNat
    | none => .error .symbol
  | .str _ => .error .operands
  | .comma => .error .operands
  | .bar => .error .operands

/-- An `imm8`: one or more terms joined by `|`, bitwise OR (30_encoding.md R84). -/
def immValue : List Token → Except AsmError Nat
  | [] => .error .operands
  | [t] => termValue t
  | t :: .bar :: rest =>
    match termValue t, immValue rest with
    | .ok a, .ok b => .ok (a ||| b)
    | .error e, _ => .error e
    | .ok _, .error e => .error e
  | _ :: _ :: _ => .error .operands

/-- The statement of a line's tokens, none for a blank line; mnemonics are case-insensitive (30_encoding.md R80). -/
def parseLine : List Token → Except AsmError (Option Stmt)
  | [] => .ok none
  | .name m :: operands =>
    let mnemonic := m.map upperChar
    if mnemonic = ['I','N','I','T'] then
      match operands with
      | [] => .ok (some .init)
      | _ => .error .operands
    else if mnemonic = ['C','M','D'] then (immValue operands).map (fun v => some (.cmd v))
    else if mnemonic = ['D','A','T','A'] then (immValue operands).map (fun v => some (.data v))
    else if mnemonic = ['S','T','R'] then
      match operands with
      | [.str text] => .ok (some (.str text))
      | _ => .error .operands
    else if mnemonic = ['S','E','N','D','B','Y','T','E'] then
      match operands with
      | .num rs :: .comma :: imm => (immValue imm).map (fun v => some (.sendByte rs v))
      | _ => .error .operands
    else if mnemonic = ['.','W','O','R','D'] then
      match operands with
      | [.num v] => .ok (some (.word v))
      | _ => .error .operands
    else .error .mnemonic
  | _ => .error .operands

/-- The words of one line of text. -/
def assembleLine (line : List Char) : Except AsmError (List Word) :=
  match lexLine (line.length + 1) line with
  | .error e => .error e
  | .ok tokens =>
    match parseLine tokens with
    | .error e => .error e
    | .ok none => .ok []
    | .ok (some stmt) => assembleStmt stmt

/-- The lines of a text, one statement per line (30_encoding.md R80). -/
def textLines : List Char → List (List Char)
  | [] => [[]]
  | c :: cs =>
    if c = '\n' then [] :: textLines cs
    else
      match textLines cs with
      | [] => [[c]]
      | line :: rest => (c :: line) :: rest

/-- The words of lines numbered from `n`; a refused line is named by its number and the reason (30_encoding.md R84). -/
def assembleLines : Nat → List (List Char) → Except (Nat × AsmError) (List Word)
  | _, [] => .ok []
  | n, line :: rest =>
    match assembleLine line with
    | .error e => .error (n, e)
    | .ok ws =>
      match assembleLines (n + 1) rest with
      | .ok ws' => .ok (ws ++ ws')
      | .error e => .error e

/-- A program text to its request words (30_encoding.md R80 to R84). -/
def assembleText (text : List Char) : Except (Nat × AsmError) (List Word) := assembleLines 1 (textLines text)

end Sys2Proof.Machine
end

