-- ==== Sys2Proof/Safety.lean ====
section
/-! DEFINITION. What claims about the LNFE are stated in: the legal states, the orderly event log, what a failure may
change, and the display's nibble pairing read off the log. -/

namespace Sys2Proof.Machine

/-- A run is finished when no request is executed and no call is pending (60_exceptions.md R190). -/
def State.finished (s : State) : Bool := !s.busy && decide (s.pending = .none)

/-- With no request in progress nothing is in flight and the sequencer is not running (10_state.md R21, R23, R40). -/
def State.idleOk (s : State) : Bool :=
  decide (s.busy = false → s.pending = .none ∧ s.phase ≠ .initializing)

/-- `init_step` "holds 0 whenever `phase != INITIALIZING`" and 1 to 10 in it (10_state.md R22). -/
def State.initStepOk (s : State) : Bool :=
  decide ((s.phase = .initializing → 1 ≤ s.initStep.toNat ∧ s.initStep.toNat ≤ 10) ∧
    (s.phase ≠ .initializing → s.initStep = 0#4))

/-- The call in flight belongs to a SENDBYTE of `payload` and `rs`: its one transaction (40_frame_encoder.md R105, R106). -/
def State.sendByteCallOk (s : State) (rs : Bool) (payload : Byte) : Bool :=
  match s.pending with
  | .busTx => decide (s.frameBuf = frameOf payload rs)
  | .busDone _ => true
  | .none => false
  | .delay _ => false
  | .delayDone => false

/-- The call in flight belongs to the init step the block is in (41_init_sequencer.md R132 to R144). -/
def State.initCallOk (s : State) : Bool :=
  match initTable s.initStep with
  | some (.waitOnly n) => decide (s.pending = .delay n) || decide (s.pending = .delayDone)
  | some (.send payload n) =>
    match s.pending with
    | .busTx => decide (s.frameBuf = frameOf payload false)
    | .busDone _ => true
    | .delay m => decide (m = n) && decide (n ≠ 0)
    | .delayDone => decide (n ≠ 0)
    | .none => false
  | none => false

/-- A request just accepted: an INIT has entered step 1 of the sequence with no failure noted, or is refused in READY; any
other word leaves the sequencer off (10_state.md R21, R22; 41_init_sequencer.md R132). -/
def State.acceptedOk (s : State) : Bool :=
  match decode s.cur with
  | .ok .init => decide (s.phase = .ready ∨ (s.phase = .initializing ∧ s.initStep = 1#4 ∧ s.anyFail = false))
  | .ok (.sendByte _ _) => decide (s.phase ≠ .initializing)
  | .error _ => decide (s.phase ≠ .initializing)

/-- A request in progress has just been accepted, with nothing in flight, or it is the legal word in `cur`, in the phase that
runs it, with a call of its own in flight (10_state.md R21, R24, R40). -/
def State.requestOk (s : State) : Bool :=
  !s.busy || (decide (s.pending = .none) && s.acceptedOk) ||
    match decode s.cur with
    | .ok (.sendByte rs payload) => decide (s.phase = .ready) && s.sendByteCallOk rs payload
    | .ok .init => decide (s.phase = .initializing) && s.initCallOk
    | .error _ => false

/-- The records agree with each other: `bus_err` is set exactly when `err_count` is not 0, a last response of 2, 3 or 4 set
`req_err`, and a last response of 1, a failure noted by INIT or one just answered set `bus_err` (60_exceptions.md R170 to
R173). -/
def State.recordsOk (s : State) : Bool :=
  decide ((s.busErr = true ↔ s.errCount ≠ 0#16) ∧
    (refusesRequest s.lastCause = true → s.reqErr = true) ∧
    (s.lastCause = .busTransportError → s.busErr = true) ∧
    (s.anyFail = true → s.busErr = true) ∧
    (s.pending = .busDone .fail → s.busErr = true))

/-- The legal states: every run from reset stays in them, and none of them faults. -/
def State.Inv (s : State) : Bool := s.idleOk && s.initStepOk && s.requestOk && s.recordsOk

/-- Where the block stands in the order of events (20_memory.md R64, R65). -/
inductive Course where
  | idle
  | running
  | inTransaction
  | inDelay (units : Nat)
deriving DecidableEq, Repr

/-- What may follow: a request is accepted only when none is running, a call is answered before anything else is issued,
a response ends the request, and a reset may come at any time (20_memory.md R58, R64, R65, R68; 60_exceptions.md R170,
R186). `none` is a log that breaks the order. -/
def courseAfter : Option Course → Event → Option Course
  | some .idle, .accepted _ => some .running
  | some .running, .busTx _ => some .inTransaction
  | some .running, .delay n => some (.inDelay n)
  | some .running, .response _ => some .idle
  | some .inTransaction, .busAnswer _ _ => some .running
  | some (.inDelay _), .delayAnswer => some .running
  | some _, .reset _ => some .idle
  | _, _ => none

/-- Where an event log, read from its start, leaves the block. -/
def logCourse (log : List Event) : Option Course := log.foldl courseAfter (some .idle)

/-- Where the state says the block stands. -/
def State.course (s : State) : Course :=
  if s.busy then
    match s.pending with
    | .busTx => .inTransaction
    | .delay n => .inDelay n
    | .none => .running
    | .busDone _ => .running
    | .delayDone => .running
  else .idle

/-- The event log is in order and ends where the block stands. -/
def State.OrderlyLog (s : State) : Prop := logCourse s.log = some s.course

/-- An event the block may produce: a transaction is one call of the one form, with the frame of some payload
(20_memory.md R51, R57; 40_frame_encoder.md R106); an answer delivers all four bytes on Ok and at most four on Fail
(20_memory.md R59); a delay is positive (00_scope.md R10). -/
def Event.Proper : Event → Prop
  | .busTx call => ∃ b rs, call = busCall (frameOf b rs)
  | .busAnswer r delivered => delivered.length ≤ frameLen ∧ (r = .ok → delivered.length = frameLen)
  | .delay n => 0 < n
  | .reset delivered => delivered.length ≤ frameLen
  | .accepted _ => True
  | .delayAnswer => True
  | .response _ => True

/-- Every event of the log is proper. -/
def State.ProperLog (s : State) : Prop := ∀ e ∈ s.log, e.Proper

/-- The event is an acceptance. -/
def Event.isAccepted : Event → Bool
  | .accepted _ => true
  | _ => false

/-- The event is the issue of a delay. -/
def Event.isDelay : Event → Bool
  | .delay _ => true
  | _ => false

/-- The event is a response. -/
def Event.isResponse : Event → Bool
  | .response _ => true
  | _ => false

/-- The bytes delivered to the display controller, oldest first: the event log of 00_scope.md R7 read as bytes. -/
def deliveredLog : List Event → List Byte
  | [] => []
  | .busAnswer _ bytes :: rest => bytes ++ deliveredLog rest
  | .reset bytes :: rest => bytes ++ deliveredLog rest
  | .accepted _ :: rest => deliveredLog rest
  | .busTx _ :: rest => deliveredLog rest
  | .delay _ :: rest => deliveredLog rest
  | .delayAnswer :: rest => deliveredLog rest
  | .response _ :: rest => deliveredLog rest

/-- The units of the answered delays in a log, `waiting` being those of a delay issued just before it (0 if none). -/
def answeredUnits : Nat → List Event → Nat
  | _, [] => 0
  | _, .delay n :: rest => answeredUnits n rest
  | waiting, .delayAnswer :: rest => waiting + answeredUnits 0 rest
  | _, .accepted _ :: rest => answeredUnits 0 rest
  | _, .busTx _ :: rest => answeredUnits 0 rest
  | _, .busAnswer _ _ :: rest => answeredUnits 0 rest
  | _, .response _ :: rest => answeredUnits 0 rest
  | _, .reset _ :: rest => answeredUnits 0 rest

/-- The units of all answered delays in a log: a lower bound on its length in `TIME_UNIT`s (20_memory.md R66, 60 R184, 70
R223). A delay that is pending, or that a reset abandoned (70 R212), has no lower bound and counts for nothing. -/
def delayUnits (log : List Event) : Nat := answeredUnits 0 log

/-- The least physical time a log takes, in the platform's unit of time (00_scope.md R5 `TIME_UNIT`; log 20). -/
def minimumTime (log : List Event) : Nat := delayUnits log * Config.timeUnit

/-- The calls a block issues, in order: what 41_init_sequencer.md R145 says no answer changes. -/
def issuedCalls : List Event → List Event
  | [] => []
  | .busTx c :: rest => .busTx c :: issuedCalls rest
  | .delay n :: rest => .delay n :: issuedCalls rest
  | .accepted _ :: rest => issuedCalls rest
  | .busAnswer _ _ :: rest => issuedCalls rest
  | .delayAnswer :: rest => issuedCalls rest
  | .response _ :: rest => issuedCalls rest
  | .reset _ :: rest => issuedCalls rest

/-- The events of one answered transaction. -/
def txEvents (f : Frame) (a : BusAnswer) : List Event :=
  [.busTx (busCall f), .busAnswer (answerResult a) (deliveredBytes a f)]

/-- The events of one answered delay. -/
def delayEvents (n : Nat) : List Event := [.delay n, .delayAnswer]

/-- How many of the answers are failures. -/
def failures : List BusAnswer → Nat
  | [] => 0
  | .ok :: rest => failures rest
  | .fail _ :: rest => failures rest + 1

/-- The response code with the transport's answer left out: 0 and 1 read the same. -/
def Response.blind : Response → Response
  | .busTransportError => .ok
  | .ok => .ok
  | .illegalRequest => .illegalRequest
  | .notReady => .notReady
  | .alreadyInitialized => .alreadyInitialized

/-- An event with the transport's answer and the bytes delivered left out. -/
def Event.blind : Event → Event
  | .busAnswer _ _ => .busAnswer .ok []
  | .reset _ => .reset []
  | .response c => .response c.blind
  | .accepted w => .accepted w
  | .busTx c => .busTx c
  | .delay n => .delay n
  | .delayAnswer => .delayAnswer

/-- An input with the transport's answer and the bytes delivered left out. -/
def Input.blind : Input → Input
  | .answer _ => .answer .ok
  | .lateAnswer _ => .lateAnswer .ok
  | .reset _ => .reset 0
  | .submit w => .submit w
  | .withdraw => .withdraw
  | .elapsed => .elapsed
  | .quiet => .quiet

/-- An answered call with its answer left out. -/
def Pending.blind : Pending → Pending
  | .busDone _ => .busDone .ok
  | .none => .none
  | .busTx => .busTx
  | .delay n => .delay n
  | .delayDone => .delayDone

/-- The state with everything left out that a transport answer may change: the error records, the codes 0 and 1, the
answers themselves and the bytes they delivered (40_frame_encoder.md R107; 10_state.md R39). -/
def State.blind (s : State) : State :=
  { s with
    anyFail := false
    errCount := 0#16
    busErr := false
    lastCause := s.lastCause.blind
    pending := s.pending.blind
    agenda := s.agenda.map Input.blind
    log := s.log.map Event.blind }

/-- An outcome seen without the transport's answers. -/
def blindOutcome : Host.Outcome State Fault Refusal → Host.Outcome State Fault Refusal
  | .next s => .next s.blind
  | .fault r => .fault r
  | .refused r => .refused r

/-- Whether the enable strobe is high in a bus byte (30_encoding.md R79). -/
def enableHigh (b : Byte) : Bool := decide (b &&& enMask ≠ 0#8)

/-- How many enable strobes, a high byte followed by a low one, a row of delivered bytes holds (40_frame_encoder.md R103). -/
def strobes : List Byte → Nat
  | [] => 0
  | [_] => 0
  | a :: b :: rest => (if enableHigh a && !enableHigh b then 1 else 0) + strobes (b :: rest)

/-- How a display controller stands in its pairing of nibbles (70_reset_and_hazards.md R220): in step, one nibble out of step,
or, where R220 leaves it to the controller, either. -/
inductive Pairing where
  | intact
  | oneNibbleOut
  | controllerDependent
deriving DecidableEq, Repr

/-- Whether a row of delivered bytes leaves an enable strobe open: a high byte that no low byte follows at once. -/
def strobeCut : List Byte → Bool
  | [] => false
  | [a] => enableHigh a
  | a :: b :: rest => (enableHigh a && enableHigh b) || strobeCut (b :: rest)

/-- The pairing after one transaction's delivered bytes, of a controller that was in step (70_reset_and_hazards.md R220): a
strobe left open depends on the controller, and otherwise an odd number of strobes leaves it one nibble out. -/
def pairingAfter (bytes : List Byte) : Pairing :=
  if strobeCut bytes then .controllerDependent
  else if strobes bytes % 2 = 0 then .intact
  else .oneNibbleOut

/-- The pairing after one more transaction's delivered bytes (70_reset_and_hazards.md R220): no later frame brings a
controller back, cut or whole. DESIGN CHOICE (log 23): a second cut of one that is out of step, of which R220 gives no figure,
leaves it to the controller. -/
def Pairing.after (p : Pairing) (bytes : List Byte) : Pairing :=
  match p with
  | .intact => pairingAfter bytes
  | .oneNibbleOut => if pairingAfter bytes = .intact then .oneNibbleOut else .controllerDependent
  | .controllerDependent => .controllerDependent

/-- The request in progress after an event: the word accepted last, until its response or a reset (60_exceptions.md R170,
70_reset_and_hazards.md R212). -/
def runningAfter (running : Option Word) : Event → Option Word
  | .accepted w => some w
  | .response _ => none
  | .reset _ => none
  | .busTx _ => running
  | .busAnswer _ _ => running
  | .delay _ => running
  | .delayAnswer => running

/-- The request a log leaves in progress. -/
def runningRequest (log : List Event) : Option Word := log.foldl runningAfter none

/-- The log leaves in progress the request the block executes, and none where it executes none (10_state.md R23, R24). -/
def State.NamesItsRequest (s : State) : Prop := runningRequest s.log = if s.busy then some s.cur else none

/-- What a log tells of the display controller: its pairing, and the request in progress. -/
structure Display where
  pairing : Pairing
  running : Option Word
deriving DecidableEq, Repr

/-- One event of a log (70_reset_and_hazards.md R216, R220). Delivered bytes move the pairing. An INIT that ends with code 0
brings the controller back: an INIT runs once between two resets (41_init_sequencer.md R150), so this is R220's "reset and
INIT". Nothing else does. DESIGN CHOICE (log 23): the bytes of a frame that a reset abandoned (R212) move the pairing as those
of a failed transaction do, of which alone R220 and 20_memory.md R62 speak; the controller is back at that response; and an INIT
of which a transaction failed brings nothing back. -/
def displayAfter (d : Display) (e : Event) : Display where
  pairing :=
    match e with
    | .busAnswer _ bytes => d.pairing.after bytes
    | .reset bytes => d.pairing.after bytes
    | .response .ok => if d.running = some (encode .init) then .intact else d.pairing
    | .response .busTransportError => d.pairing
    | .response .illegalRequest => d.pairing
    | .response .notReady => d.pairing
    | .response .alreadyInitialized => d.pairing
    | .accepted _ => d.pairing
    | .busTx _ => d.pairing
    | .delay _ => d.pairing
    | .delayAnswer => d.pairing
  running := runningAfter d.running e

/-- What a log tells of a controller that stood at `p` when the log began. -/
def displayOf (p : Pairing) (log : List Event) : Display := log.foldl displayAfter ⟨p, none⟩

/-- The pairing of the controller at a state, from the pairing `p` it had when the log began. -/
def State.pairing (p : Pairing) (s : State) : Pairing := (displayOf p s.log).pairing

end Sys2Proof.Machine
end

