-- ==== Sys2Proof/Certificates/Slice0/Obligations.lean ====
section
/-! DEFINITION. The statements for the provers, from the numbered rules of spec/. Where a statement rests on a choice of
the model, its docstring names the log entry. -/

open Sys2Proof Sys2Proof.Machine

/-! ### Encoding of requests -/

/-- 30_encoding.md R72, R73, R75: decoding the word of a request gives the request back, with every operand at every
value. -/
def Obligations.DecodeOfEncodeIsTheRequest : Prop :=
  ∀ i : Instr, i.wellFormed = true → decode (encode i) = .ok i

/-- 30_encoding.md R72 to R74: a word that decodes is the word of what it decodes to, so no bit of it is dropped. -/
def Obligations.EncodeOfDecodeIsTheWord : Prop :=
  ∀ (w : Word) (i : Instr), decode w = .ok i → encode i = w

/-- 30_encoding.md R76: which words are reserved, read off the word as a number, and what an accepted reserved word does:
code 2, no transaction, no delay, no change of `phase`. -/
def Obligations.ReservedWordsAreIllegal : Prop :=
  ∀ w : Word,
    ((∃ r, decode w = .error r) ↔
      (w.toNat / 4096 ≠ 1 ∧ w.toNat / 4096 ≠ 2) ∨
      (w.toNat / 4096 = 1 ∧ w.toNat / 512 % 8 ≠ 0) ∨
      (w.toNat / 4096 = 2 ∧ w.toNat ≠ 0x2000)) ∧
    ∀ s : State, (∃ r, decode w = .error r) →
      ∃ t, execute w s = .next t ∧ t.lastCause = .illegalRequest ∧ responseCode t.lastCause = 2#4 ∧
        t.phase = s.phase ∧ t.pending = .none ∧ t.log = s.log ++ [.response .illegalRequest]

/-- The words of 30_encoding.md R85 and of its test vectors, written out from the encodings, decode as the spec lists. -/
def Obligations.ListedWordsDecodeAsListed : Prop :=
  decode 0b0001000000101000#16 = .ok (.sendByte false 0x28#8) ∧
  decode 0b0001000101010100#16 = .ok (.sendByte true 0x54#8) ∧
  decode 0b0001000111111111#16 = .ok (.sendByte true 0xFF#8) ∧
  decode 0b0010000000000000#16 = .ok .init ∧
  decode 0b0001001000000000#16 = .error (.sendByteZ 1#3) ∧
  decode 0b0000000000000000#16 = .error (.opcode 0#4) ∧
  decode 0b0010000000000001#16 = .error (.initOperand 1#12)

/-! ### The frame encoder -/

/-- 00_scope.md R6, which the spec marks as derived from its R5 and R54: each mask is a single bit within bits[3:0], and all
four are distinct. -/
def Obligations.MasksAreDistinctSingleBits : Prop :=
  (∀ m ∈ [rsMask, rwMask, enMask, blMask], ∃ i : Fin 4, m = 1#8 <<< i.val) ∧
  [rsMask, rwMask, enMask, blMask].Nodup

/-- 30_encoding.md R79, 40_frame_encoder.md R100: the layout of a bus byte, bit by bit. -/
def Obligations.BusByteLayout : Prop :=
  ∀ (n : Nibble) (rs bl en : Bool),
    (frameByte n rs bl en).toNat / 16 = n.toNat ∧
    (frameByte n rs bl en).getLsbD 0 = rs ∧ (frameByte n rs bl en).getLsbD 1 = false ∧
    (frameByte n rs bl en).getLsbD 2 = en ∧ (frameByte n rs bl en).getLsbD 3 = bl

/-- 40_frame_encoder.md R102, R103: every byte of a frame carries `rs`, has BL set and RW clear; EN is set in bytes 0 and 2
and clear in bytes 1 and 3. Said through the masks. -/
def Obligations.FrameControlBits : Prop :=
  ∀ (b : Byte) (rs : Bool),
    (∀ x ∈ frameBytes (frameOf b rs),
      decide (x &&& rsMask ≠ 0#8) = rs ∧ x &&& blMask ≠ 0#8 ∧ x &&& rwMask = 0#8) ∧
    (frameOf b rs).b0 &&& enMask ≠ 0#8 ∧ (frameOf b rs).b2 &&& enMask ≠ 0#8 ∧
    (frameOf b rs).b1 &&& enMask = 0#8 ∧ (frameOf b rs).b3 &&& enMask = 0#8

/-- 40_frame_encoder.md R104: the high nibble is in bits[7:4] of bytes 0 and 1, the low nibble in those of bytes 2 and 3. -/
def Obligations.FrameNibbles : Prop :=
  ∀ (b : Byte) (rs : Bool),
    (frameOf b rs).b0.toNat / 16 = b.toNat / 16 ∧ (frameOf b rs).b1.toNat / 16 = b.toNat / 16 ∧
    (frameOf b rs).b2.toNat / 16 = b.toNat % 16 ∧ (frameOf b rs).b3.toNat / 16 = b.toNat % 16

/-- 40_frame_encoder.md R101: a frame as four frame bytes, high nibble first, enable high then low; and its closed form with
`hi = b & 0xF0`, `lo = (b << 4) & 0xF0`, `c = 0x08 | rs`. -/
def Obligations.FrameClosedForm : Prop :=
  ∀ (b : Byte) (rs : Bool),
    let hi := b &&& 0xF0#8
    let lo := (b <<< 4) &&& 0xF0#8
    let c := 0x08#8 ||| (if rs then 0x01#8 else 0x00#8)
    frameBytes (frameOf b rs) =
      [frameByte (b.extractLsb' 4 4) rs true true, frameByte (b.extractLsb' 4 4) rs true false,
        frameByte (b.extractLsb' 0 4) rs true true, frameByte (b.extractLsb' 0 4) rs true false] ∧
    frameBytes (frameOf b rs) = [hi ||| c ||| 0x04#8, hi ||| c, lo ||| c ||| 0x04#8, lo ||| c]

/-- 40_frame_encoder.md R109, which the spec marks as derived from its R101 to R104: the inverse recovers payload and
register select, and different pairs give different frames. -/
def Obligations.FrameHasAnInverse : Prop :=
  (∀ (b : Byte) (rs : Bool), framePayload (frameOf b rs) = b ∧ frameRs (frameOf b rs) = rs) ∧
  ∀ (b b' : Byte) (rs rs' : Bool), frameOf b rs = frameOf b' rs' → b = b' ∧ rs = rs'

/-- 40_frame_encoder.md R110, which the spec marks as derived from its R101: the corner-case table. -/
def Obligations.CornerCaseFrames : Prop :=
  frameBytes (frameOf 0x00#8 false) = [0x0C#8, 0x08#8, 0x0C#8, 0x08#8] ∧
  frameBytes (frameOf 0x00#8 true) = [0x0D#8, 0x09#8, 0x0D#8, 0x09#8] ∧
  frameBytes (frameOf 0xFF#8 false) = [0xFC#8, 0xF8#8, 0xFC#8, 0xF8#8] ∧
  frameBytes (frameOf 0xFF#8 true) = [0xFD#8, 0xF9#8, 0xFD#8, 0xF9#8] ∧
  frameBytes (frameOf 0x0F#8 true) = [0x0D#8, 0x09#8, 0xFD#8, 0xF9#8] ∧
  frameBytes (frameOf 0xF0#8 false) = [0xFC#8, 0xF8#8, 0x0C#8, 0x08#8] ∧
  frameBytes (frameOf 0xA5#8 true) = [0xAD#8, 0xA9#8, 0x5D#8, 0x59#8] ∧
  frameBytes (frameOf 0x5A#8 false) = [0x5C#8, 0x58#8, 0xAC#8, 0xA8#8]

/-- 70_reset_and_hazards.md R220: what the first `k` bytes of any frame do to the nibble pairing of a controller that was
in step. -/
def Obligations.PartialFramePairing : Prop :=
  ∀ (b : Byte) (rs : Bool) (k : Fin 5),
    pairingAfter ((frameBytes (frameOf b rs)).take k.val) =
      if k = 0 ∨ k = 4 then .intact else if k = 2 then .oneNibbleOut else .controllerDependent

/-! ### SENDBYTE -/

/-- 40_frame_encoder.md R105, R106: in READY a SENDBYTE at its start writes `frame_buf` and issues exactly one call, with
the constant address, stop and timeout; everything else stays. -/
def Obligations.SendByteIssuesItsFrame : Prop :=
  ∀ (rs : Bool) (b : Byte) (s : State), s.phase = .ready → s.pending = .none →
    exec (.sendByte rs b) s =
      .next { s with
        frameBuf := frameOf b rs
        pending := .busTx
        log := s.log ++ [.busTx ⟨Config.busAddr, frameOf b rs, true, Config.txTimeout⟩] }

/-- 40_frame_encoder.md R105, 60_exceptions.md R170: with its transaction answered a SENDBYTE responds 0 or 1; `phase`,
`init_step`, `req_err` and everything else stay. -/
def Obligations.SendByteRespondsToItsAnswer : Prop :=
  ∀ (rs : Bool) (b : Byte) (r : BusResult) (s : State), s.pending = .busDone r →
    exec (.sendByte rs b) s =
      .next { s with
        lastCause := if r = .ok then .ok else .busTransportError
        busy := false
        pending := .none
        log := s.log ++ [.response (if r = .ok then .ok else .busTransportError)] }

/-- 40_frame_encoder.md R105 with R106, R107, R111 and 60_exceptions.md R170, R173: an accepted SENDBYTE runs from its start
to its response: one transaction with the frame of its payload, the bytes the answer says delivered, a failure recorded
and nothing else, and code 0 or 1. The two further steps of its run, and the agenda that lets the block move in the second
of them, are the model's granularity (log 1, 2). -/
def Obligations.SendByteRunsToItsResponse : Prop :=
  ∀ (rs : Bool) (b : Byte) (a : BusAnswer) (s : State) (rest : List Input),
    s.busy = true → s.phase = .ready → s.pending = .none → s.cur = encode (.sendByte rs b) →
    s.agenda = [.answer a, .quiet] ++ rest →
    ∃ u t, exec (.sendByte rs b) s = .next u ∧ Host.Core.run core 2 u = .next t ∧
      t.log = s.log ++ txEvents (frameOf b rs) a ++
        [.response (if answerResult a = .ok then .ok else .busTransportError)] ∧
      t.lastCause = (if answerResult a = .ok then .ok else .busTransportError) ∧
      t.errCount.toNat = min (s.errCount.toNat + failures [a]) 0xFFFF ∧
      t.busErr = (s.busErr || decide (failures [a] ≠ 0)) ∧
      t.reqErr = s.reqErr ∧ t.anyFail = s.anyFail ∧ t.phase = .ready ∧ t.initStep = s.initStep ∧
      t.cur = s.cur ∧ t.busy = false ∧ t.pending = .none ∧ t.port = s.port ∧ t.agenda = rest

/-- 60_exceptions.md R175: a SENDBYTE in UNINIT responds 3 and does nothing else. -/
def Obligations.SendByteBeforeInitIsNotReady : Prop :=
  ∀ (rs : Bool) (b : Byte) (s : State), s.phase = .uninit → s.pending = .none →
    exec (.sendByte rs b) s =
      .next { s with
        lastCause := .notReady
        reqErr := true
        busy := false
        pending := .none
        log := s.log ++ [.response .notReady] }

/-- The frame of SENDBYTE (40_frame_encoder.md R105 "Not written", R111): whatever state it moves on from, it leaves
`phase`, `init_step`, `any_fail`, `cur`, the port and the agenda; `req_err` only in UNINIT at its start; and it issues no
delay. R105 lists `err_count` and `bus_err` as written on Fail: they are, as the answer arrives (60_exceptions.md R172), and
that the answer's arrival is a step of its own, so that no move of `exec` writes them, is the model's granularity (log 1). -/
def Obligations.SendByteFrame : Prop :=
  ∀ (rs : Bool) (b : Byte) (s t : State), exec (.sendByte rs b) s = .next t →
    t.phase = s.phase ∧ t.initStep = s.initStep ∧ t.anyFail = s.anyFail ∧ t.errCount = s.errCount ∧
    t.busErr = s.busErr ∧ t.cur = s.cur ∧ t.port = s.port ∧ t.agenda = s.agenda ∧ t.draws = s.draws ∧
    (¬ (s.pending = .none ∧ s.phase = .uninit) → t.reqErr = s.reqErr) ∧
    (¬ (s.pending = .none ∧ s.phase ≠ .uninit) → t.frameBuf = s.frameBuf) ∧
    ((s.pending = .busTx ∨ ∃ n, s.pending = .delay n) → t = s) ∧
    t.log.filter Event.isDelay = s.log.filter Event.isDelay

/-! ### INIT -/

/-- 41_init_sequencer.md R132, R133: an INIT that is not refused starts the sequence: step 1 waits 50 units and sends
nothing. The spec's `Execute` starts in UNINIT (30_encoding.md R74). In the model the acceptance of an INIT has entered
INITIALIZING with step 1 (10_state.md R21), a step before this move, which is the model's granularity (log 1), and so the start
is met in INITIALIZING and runs there by R74's `else`, as it would in UNINIT, which is the model's choice (log 12). -/
def Obligations.InitStartsWithThePowerOnWait : Prop :=
  ∀ s : State, s.phase ≠ .ready → s.pending = .none →
    exec .init s =
      .next { s with
        phase := .initializing
        anyFail := false
        initStep := 1#4
        pending := .delay 50
        log := s.log ++ [.delay 50] }

/-- 60_exceptions.md R176: an INIT in READY responds 4 and does nothing else. -/
def Obligations.InitInReadyIsAlreadyInitialized : Prop :=
  ∀ s : State, s.phase = .ready → s.pending = .none →
    exec .init s =
      .next { s with
        lastCause := .alreadyInitialized
        reqErr := true
        busy := false
        pending := .none
        log := s.log ++ [.response .alreadyInitialized] }

/-- 41_init_sequencer.md R134 to R137, R140, R144: after the transaction of a step that waits, whatever its answer, the one
delay of that step; and a failure noted in `any_fail` (R132). That `any_fail` takes the answer up in this move, and not as the
answer arrives, is the model's granularity (log 1); that `init_step` still reads `k` here is its reading (log 21). -/
def Obligations.InitWaitsAfterItsFrames : Prop :=
  ∀ (s : State) (r : BusResult) (k : BitVec 4) (n : Nat),
    (k, n) ∈ [(2#4, 5), (3#4, 1), (4#4, 1), (5#4, 1), (8#4, 2)] →
    s.pending = .busDone r → s.initStep = k →
    exec .init s =
      .next { s with
        anyFail := s.anyFail || decide (r = .fail)
        pending := .delay n
        log := s.log ++ [.delay n] }

/-- 41_init_sequencer.md R132, R134 to R142, R144; 40_frame_encoder.md R106: the step after a wait, and the step after a
transaction without one, writes its number to `init_step`, its frame to `frame_buf`, and sends it. The bytes are those listed
in R134 to R142, which the spec marks as derived from 40_frame_encoder.md R101. That `init_step` reads `k` until this move is
the model's reading (log 21), and that `any_fail` takes the last answer up in it is the model's granularity (log 1). -/
def Obligations.InitSendsTheListedFrames : Prop :=
  (∀ (s : State) (k : BitVec 4) (f : Frame),
    (k, f) ∈ [(1#4, ⟨0x3C#8, 0x38#8, 0x0C#8, 0x08#8⟩), (2#4, ⟨0x3C#8, 0x38#8, 0x0C#8, 0x08#8⟩),
      (3#4, ⟨0x3C#8, 0x38#8, 0x0C#8, 0x08#8⟩), (4#4, ⟨0x2C#8, 0x28#8, 0x0C#8, 0x08#8⟩),
      (5#4, ⟨0x2C#8, 0x28#8, 0x8C#8, 0x88#8⟩), (8#4, ⟨0x0C#8, 0x08#8, 0x6C#8, 0x68#8⟩)] →
    s.pending = .delayDone → s.initStep = k →
    exec .init s =
      .next { s with
        initStep := k + 1#4
        frameBuf := f
        pending := .busTx
        log := s.log ++ [.busTx (busCall f)] }) ∧
  (∀ (s : State) (r : BusResult) (k : BitVec 4) (f : Frame),
    (k, f) ∈ [(6#4, ⟨0x0C#8, 0x08#8, 0xCC#8, 0xC8#8⟩), (7#4, ⟨0x0C#8, 0x08#8, 0x1C#8, 0x18#8⟩),
      (9#4, ⟨0x0C#8, 0x08#8, 0x2C#8, 0x28#8⟩)] →
    s.pending = .busDone r → s.initStep = k →
    exec .init s =
      .next { s with
        anyFail := s.anyFail || decide (r = .fail)
        initStep := k + 1#4
        frameBuf := f
        pending := .busTx
        log := s.log ++ [.busTx (busCall f)] })

/-- 41_init_sequencer.md R143, R132: once step 10's transaction is answered, READY at once, whatever the answer, and code 1 if
any transaction failed. That `any_fail` takes this answer up in the completing move is the model's granularity (log 1), and
that `init_step` reads 10 until then and `any_fail` keeps its value after the INIT are the model's readings (log 21). -/
def Obligations.InitCompletesAfterStepTen : Prop :=
  ∀ (s : State) (r : BusResult), s.pending = .busDone r → s.initStep = 10#4 →
    exec .init s =
      .next { s with
        anyFail := s.anyFail || decide (r = .fail)
        initStep := 0#4
        phase := .ready
        lastCause := if s.anyFail = true ∨ r = .fail then .busTransportError else .ok
        busy := false
        pending := .none
        log := s.log ++ [.response (if s.anyFail = true ∨ r = .fail then .busTransportError else .ok)] }

/-- 41_init_sequencer.md R148, which the spec marks as derived from its R132 to R144: the whole trace of an INIT accepted in
UNINIT, for every pattern of transport answers, and the state it leaves. That it takes 32 steps is the model's granularity,
one step for one event of the block (log 1), the agenda gives each moment to the block or to the agent that acts (log 2), and
the least duration read off the trace is the model's measure (log 20). -/
def Obligations.InitTrace : Prop :=
  ∀ (s : State) (ws : List Word) (rest : List Input) (a2 a3 a4 a5 a6 a7 a8 a9 a10 : BusAnswer),
    s.busy = false → s.phase = .uninit → s.port = 0x2000#16 :: ws →
    s.agenda = [.quiet, .quiet] ++
      ([.elapsed, .answer a2, .elapsed, .answer a3, .elapsed, .answer a4, .elapsed, .answer a5, .elapsed,
        .answer a6, .answer a7, .answer a8, .elapsed, .answer a9, .answer a10].flatMap fun i => [i, .quiet]) ++ rest →
    let fails := failures [a2, a3, a4, a5, a6, a7, a8, a9, a10]
    let code : Response := if fails = 0 then .ok else .busTransportError
    let trace := delayEvents 50 ++
      txEvents ⟨0x3C#8, 0x38#8, 0x0C#8, 0x08#8⟩ a2 ++ delayEvents 5 ++
      txEvents ⟨0x3C#8, 0x38#8, 0x0C#8, 0x08#8⟩ a3 ++ delayEvents 1 ++
      txEvents ⟨0x3C#8, 0x38#8, 0x0C#8, 0x08#8⟩ a4 ++ delayEvents 1 ++
      txEvents ⟨0x2C#8, 0x28#8, 0x0C#8, 0x08#8⟩ a5 ++ delayEvents 1 ++
      txEvents ⟨0x2C#8, 0x28#8, 0x8C#8, 0x88#8⟩ a6 ++
      txEvents ⟨0x0C#8, 0x08#8, 0xCC#8, 0xC8#8⟩ a7 ++
      txEvents ⟨0x0C#8, 0x08#8, 0x1C#8, 0x18#8⟩ a8 ++ delayEvents 2 ++
      txEvents ⟨0x0C#8, 0x08#8, 0x6C#8, 0x68#8⟩ a9 ++
      txEvents ⟨0x0C#8, 0x08#8, 0x2C#8, 0x28#8⟩ a10
    delayUnits trace = 60 ∧ minimumTime trace = 60 * Config.timeUnit ∧
    ∃ t, Host.Core.run core 32 s = .next t ∧
      t.log = s.log ++ [.accepted 0x2000#16] ++ trace ++ [.response code] ∧
      t.phase = .ready ∧ t.initStep = 0#4 ∧ t.busy = false ∧ t.pending = .none ∧ t.lastCause = code ∧
      t.errCount.toNat = min (s.errCount.toNat + fails) 0xFFFF ∧ t.busErr = (s.busErr || decide (fails ≠ 0)) ∧
      t.reqErr = s.reqErr ∧ t.port = ws ∧ t.agenda = rest

/-- The frame of INIT (41_init_sequencer.md R132 "State written"): no move of it touches `cur`, the port or the agenda;
`req_err` only when it is refused in READY; and a frame it writes is one of a command (RS = 0). R132 lists `err_count` and
`bus_err` as written on each failure: they are, as the answer arrives (60_exceptions.md R172), and that the answer's arrival is
a step of its own, so that no move of `exec` writes them, is the model's granularity (log 1). -/
def Obligations.InitFrame : Prop :=
  ∀ s t : State, exec .init s = .next t →
    t.cur = s.cur ∧ t.errCount = s.errCount ∧ t.busErr = s.busErr ∧ t.port = s.port ∧ t.agenda = s.agenda ∧
    t.draws = s.draws ∧ (¬ (s.pending = .none ∧ s.phase = .ready) → t.reqErr = s.reqErr) ∧
    ((s.pending = .busTx ∨ ∃ n, s.pending = .delay n) → t = s) ∧
    (t.frameBuf = s.frameBuf ∨ (t.pending = .busTx ∧ ∃ b, t.frameBuf = frameOf b false))

/-! ### Acceptance, answers, reset -/

/-- 60_exceptions.md R186, R188, R189, 10_state.md R21, 30_encoding.md R74, 70_reset_and_hazards.md R211. On the block's turn an
idle block accepts the word at its port: it latches it, becomes busy, and an INIT accepted in UNINIT enters INITIALIZING; with
no word there it is idle and keeps all its state; and a step of a block with a request that waits for no answer is `exec` of
the request decoded from `cur`. Where an external agent acts next, its input takes effect instead: a word it presents waits
at the port, or one is no longer presented. That acceptance and the request's first move are two steps is the model's
granularity (log 1); that the agenda says whose turn it is, and that the words at the port wait in order and the first is
accepted, are the model's choices (log 2, 14). -/
def Obligations.StepRunsTheDecodedRequest : Prop :=
  (∀ (s : State) (w : Word) (ws : List Word), blockTurn s = true → s.busy = false → s.port = w :: ws →
    step s = .next { s with
      port := ws, agenda := s.agenda.tail, cur := w, busy := true, pending := .none
      phase := if w = 0x2000#16 ∧ s.phase = .uninit then .initializing else s.phase
      initStep := if w = 0x2000#16 ∧ s.phase = .uninit then 1#4 else s.initStep
      anyFail := if w = 0x2000#16 ∧ s.phase = .uninit then false else s.anyFail
      log := s.log ++ [.accepted w] }) ∧
  (∀ s : State, blockTurn s = true → s.busy = false → s.port = [] →
    step s = .next { s with agenda := s.agenda.tail }) ∧
  (∀ (s : State) (i : Instr),
    blockTurn s = true → s.busy = true → awaiting s.pending = false → decode s.cur = .ok i →
    step s = exec i { s with agenda := s.agenda.tail }) ∧
  (∀ (s : State) (i : Input) (rest : List Input), s.agenda = i :: rest → i ≠ .quiet →
    step s = .next (takeInput i { s with agenda := rest })) ∧
  (∀ (s : State) (w : Word) (rest : List Input), s.agenda = .submit w :: rest →
    step s = .next { s with agenda := rest, port := s.port ++ [w] }) ∧
  ∀ (s : State) (rest : List Input), s.agenda = .withdraw :: rest →
    step s = .next { s with agenda := rest, port := s.port.tail }

/-- The host's way to have a table word run makes the very next step run it, from every state (the model's choice, log 16):
on a row's word, `step` is `exec` of what the decoder reads from it, and on an idle block whose turn it is it is the
acceptance of the word and nothing else. -/
def Obligations.PresentedTableWordRunsNext : Prop :=
  ∀ (s : State) (w : Nat) (i : Instr), decodeTableWord 16 w = some i →
    let u := s.withFetchWord 16 w
    step u = exec i { u with agenda := u.agenda.tail } ∧
      u.cur = BitVec.ofNat 16 w ∧ u.busy = true ∧ u.pending = .none ∧
      u.port = s.port ∧ u.log = s.log ++ [.accepted (BitVec.ofNat 16 w)] ∧
      u.errCount = s.errCount ∧ u.busErr = s.busErr ∧ u.reqErr = s.reqErr ∧ u.lastCause = s.lastCause ∧
      (s.phase ≠ .initializing → blockTurn s = true → u = accept (BitVec.ofNat 16 w) s)

/-- 60_exceptions.md R174: an accepted reserved word responds 2 and does nothing else, whatever the phase. -/
def Obligations.ReservedWordIsAnsweredIllegal : Prop :=
  ∀ (s : State) (why : Reserved),
    blockTurn s = true → s.busy = true → s.pending = .none → decode s.cur = .error why →
    step s =
      .next { s with
        agenda := s.agenda.tail
        busy := false
        lastCause := .illegalRequest
        reqErr := true
        log := s.log ++ [.response .illegalRequest] }

/-- 60_exceptions.md R177: a request answered with code 2, 3 or 4 issues no call and leaves `phase`, `init_step`,
`frame_buf`, `any_fail`, `err_count` and `bus_err`; its only effects are those of `Respond`, and the code is that of its
cause. -/
def Obligations.RefusedRequestsChangeOnlyTheResponse : Prop :=
  ∀ s : State,
    blockTurn s = true → s.busy = true → s.pending = .none →
    ((∃ why, decode s.cur = .error why) ∨ (s.phase = .uninit ∧ ∃ rs b, decode s.cur = .ok (.sendByte rs b)) ∨
      (s.phase = .ready ∧ decode s.cur = .ok .init)) →
    ∃ t, step s = .next t ∧
      t.lastCause = (match decode s.cur with
        | .error _ => .illegalRequest
        | .ok (.sendByte _ _) => .notReady
        | .ok .init => .alreadyInitialized) ∧
      t.reqErr = true ∧ t.busy = false ∧
      t.phase = s.phase ∧ t.initStep = s.initStep ∧ t.frameBuf = s.frameBuf ∧ t.anyFail = s.anyFail ∧
      t.errCount = s.errCount ∧ t.busErr = s.busErr ∧ t.pending = .none ∧ t.cur = s.cur ∧ t.port = s.port ∧
      t.agenda = s.agenda.tail ∧ t.draws = s.draws ∧
      t.log = s.log ++ [.response t.lastCause] ∧ issuedCalls t.log = issuedCalls s.log

/-- 60_exceptions.md R186, 41_init_sequencer.md R146: while a request runs no word is taken and none is lost: the port keeps
its words in order unless the requester itself no longer presents one (log 14), and no acceptance is logged. -/
def Obligations.BusyBlockHoldsPresentedWords : Prop :=
  ∀ s t : State, s.busy = true → step s = .next t →
    ((∃ more, t.port = s.port ++ more) ∨ (s.agenda.head? = some .withdraw ∧ t.port = s.port.tail)) ∧
    (t.log.filter Event.isAccepted) = (s.log.filter Event.isAccepted)

/-- What the answer of a consumed agent does. 20_memory.md R59, 40_frame_encoder.md R106, R107, 60_exceptions.md R172: the
transport's: the bytes it says are delivered in order, a failure is recorded at once, and nothing else of the block changes but
the contents of `frame_buf`, which the spec leaves open from here on. 60_exceptions.md R184: the timing source's: it carries no
result and no failure, so the delay is answered and nothing else changes. That an answer's arrival is a step of its own, in
which an INIT's `any_fail` does not yet take a failure up, is the model's granularity (log 1); that `init_step` stays at its
step there is its reading (log 21). -/
def Obligations.TransportAnswerIsRecorded : Prop :=
  (∀ (s : State) (a : BusAnswer) (rest : List Input),
    s.busy = true → s.pending = .busTx → s.agenda = .answer a :: rest →
    ∃ t, step s = .next t ∧ t.pending = .busDone (answerResult a) ∧
      (∃ bytes tail, t.log = s.log ++ [.busAnswer (answerResult a) bytes] ∧ bytes ++ tail = frameBytes s.frameBuf ∧
        (answerResult a = .ok → tail = []) ∧ (∀ k, a = .fail k → bytes.length = k.val) ∧
        deliveredLog t.log = deliveredLog s.log ++ bytes) ∧
      t.errCount.toNat = min (s.errCount.toNat + failures [a]) 0xFFFF ∧
      t.busErr = (s.busErr || decide (failures [a] ≠ 0)) ∧
      t.phase = s.phase ∧ t.initStep = s.initStep ∧ t.busy = true ∧ t.cur = s.cur ∧ t.anyFail = s.anyFail ∧
      t.reqErr = s.reqErr ∧ t.lastCause = s.lastCause ∧ t.port = s.port ∧ t.agenda = rest) ∧
  ∀ (s : State) (n : Nat) (rest : List Input), s.busy = true → s.pending = .delay n → s.agenda = .elapsed :: rest →
    step s = .next { s with agenda := rest, pending := .delayDone, log := s.log ++ [.delayAnswer] }

/-- 60_exceptions.md R173: `RecordBusError` sets `bus_err`, counts up to 0xFFFF and stays there, and changes nothing
else. -/
def Obligations.BusErrorRecordSaturates : Prop :=
  ∀ s : State,
    (recordBusError s).busErr = true ∧
    (recordBusError s).errCount.toNat = min (s.errCount.toNat + 1) 0xFFFF ∧
    (s.errCount = 0xFFFF#16 → (recordBusError s).errCount = 0xFFFF#16) ∧
    { recordBusError s with busErr := s.busErr, errCount := s.errCount } = s

/-- 60_exceptions.md R190, 20_memory.md R58, R65: a block whose call is not answered does not move: with no reset due and no
answer to that call arriving, everything of the block stays and nothing is logged; only the words at the port may change,
as the requester presents one more or no longer presents one (log 14). -/
def Obligations.UnansweredCallBlocks : Prop :=
  ∀ s : State, s.busy = true → resetNext s = false →
    ((s.pending = .busTx ∧ ∀ a, s.agenda.head? ≠ some (.answer a)) ∨
      ((∃ n, s.pending = .delay n) ∧ s.agenda.head? ≠ some .elapsed)) →
    ∃ ws, step s = .next { s with agenda := s.agenda.tail, port := ws } ∧
      (ws = s.port ∨ (∃ w, s.agenda.head? = some (.submit w) ∧ ws = s.port ++ [w]) ∨
        (s.agenda.head? = some .withdraw ∧ ws = s.port.tail))

/-- 70_reset_and_hazards.md R210: reset, asserted at any time, sets every element of the block to its reset value; the
status port then reads 0x0080, 0x0000 and the bus address. -/
def Obligations.ResetRestoresTheBlock : Prop :=
  ∀ (s : State) (k : Fin 5) (rest : List Input), s.agenda = .reset k :: rest →
    ∃ t, step s = .next t ∧ t.phase = .uninit ∧ t.initStep = 0#4 ∧ t.busy = false ∧ t.anyFail = false ∧
      t.errCount = 0#16 ∧ t.busErr = false ∧ t.reqErr = false ∧ t.lastCause = .ok ∧ t.pending = .none ∧
      statusPort t 0#2 = 0x0080#16 ∧ statusPort t 1#2 = 0x0000#16 ∧
      statusPort t 2#2 = Config.busAddr.zeroExtend 16

/-- 70_reset_and_hazards.md R212: a reset abandons the request in progress: no response, no further call, of a frame in
flight some prefix delivered (that all of it stands in the reset's own entry is the model's choice, log 22), presented words
still the requester's; and an answer, of the transport or of the timing source, that arrives when its call is no longer
in flight is discarded and records nothing (log 13). -/
def Obligations.ResetAbandonsTheRequest : Prop :=
  (∀ (s : State) (k : Fin 5) (rest : List Input), s.agenda = .reset k :: rest →
    ∃ t bytes, step s = .next t ∧ t.log = s.log ++ [.reset bytes] ∧ t.port = s.port ∧ t.agenda = rest ∧
      t.finished = true ∧
      (s.pending = .busTx → bytes = (frameBytes s.frameBuf).take k.val) ∧ (s.pending ≠ .busTx → bytes = [])) ∧
  (∀ (s : State) (a : BusAnswer) (rest : List Input),
    ((s.agenda = .answer a :: rest ∧ s.pending ≠ .busTx) ∨ s.agenda = .lateAnswer a :: rest) →
    step s = .next { s with agenda := rest }) ∧
  ∀ (s : State) (rest : List Input), s.agenda = .elapsed :: rest → (∀ n, s.pending ≠ .delay n) →
    step s = .next { s with agenda := rest }

/-- 60_exceptions.md R178(a), (d): a reserved word is ILLEGAL_REQUEST where a legal one would be NOT_READY or
ALREADY_INITIALIZED, and a reset that is due is taken whatever the block could do. -/
def Obligations.PriorityOfCauses : Prop :=
  (∀ (s : State) (w : Word) (why : Reserved), decode w = .error why →
    execute w s = .next (respond .illegalRequest s)) ∧
  ∀ (s t : State), resetNext s = true → step s = .next t →
    t.busy = false ∧ t.phase = .uninit ∧ issuedCalls t.log = issuedCalls s.log ∧
    (t.log.filter Event.isAccepted) = (s.log.filter Event.isAccepted) ∧
    (t.log.filter Event.isResponse) = (s.log.filter Event.isResponse)

/-! ### Reset state and the status port -/

/-- 10_state.md §6, 70_reset_and_hazards.md R210, R211: the values the spec gives for reset, and a block that starts nothing
by itself. `cur` and `frame_buf` have none and are not named. -/
def Obligations.StateAfterReset : Prop :=
  State.reset.phase = .uninit ∧ State.reset.initStep = 0#4 ∧ State.reset.busy = false ∧
  State.reset.anyFail = false ∧ State.reset.errCount = 0#16 ∧ State.reset.busErr = false ∧
  State.reset.reqErr = false ∧ State.reset.lastCause = .ok ∧
  statusPort State.reset 0#2 = 0x0080#16 ∧ statusPort State.reset 1#2 = 0x0000#16 ∧
  State.reset.finished = true ∧ step State.reset = .next State.reset

/-- 10_state.md R33: every field of STATUS at its place, BL reading 1 and the reserved bits 0, as one number; and its value
at reset. -/
def Obligations.StatusRegisterFields : Prop :=
  (∀ s : State,
    (statusPort s 0#2).toNat =
      (match s.phase with | .uninit => 0 | .initializing => 1 | .ready => 2) +
      4 * s.busy.toNat + 8 * s.initStep.toNat + 128 + 256 * s.busErr.toNat + 512 * s.reqErr.toNat +
      1024 * (match s.lastCause with
        | .ok => 0 | .busTransportError => 1 | .illegalRequest => 2 | .notReady => 3 | .alreadyInitialized => 4)) ∧
  statusPort State.reset 0#2 = 0x0080#16

/-- 10_state.md R32, R34, R35: the other status registers. -/
def Obligations.OtherStatusRegisters : Prop :=
  ∀ s : State,
    statusPort s 1#2 = s.errCount ∧
    (statusPort s 2#2).toNat = Config.busAddr.toNat ∧ (statusPort s 2#2).toNat < 128 ∧
    statusPort s 3#2 = 0x0000#16

/-- 10_state.md R24, R25, R29: `cur`, `frame_buf` and `any_fail` are not readable: the status port cannot tell two states
apart that differ only in hidden state or in the model's own fields. -/
def Obligations.HiddenStateIsNotReadable : Prop :=
  ∀ (s t : State) (index : BitVec 2),
    t.phase = s.phase → t.initStep = s.initStep → t.busy = s.busy → t.busErr = s.busErr → t.reqErr = s.reqErr →
    t.lastCause = s.lastCause → t.errCount = s.errCount → statusPort t index = statusPort s index

/-! ### Invariants and whole-machine rules -/

/-- The state after reset is legal, and its log is in order and proper. -/
def Obligations.ResetIsLegal : Prop :=
  State.reset.Inv = true ∧ State.reset.OrderlyLog ∧ State.reset.ProperLog

/-- 10_state.md R21 to R25, R40; 60_exceptions.md R170 to R173: every step from a legal state leads to a legal state. -/
def Obligations.StepKeepsStatesLegal : Prop :=
  ∀ s t : State, s.Inv = true → step s = .next t → t.Inv = true

/-- 60_exceptions.md R179, R190: from a legal state the machine never stops: every step answers a next state, and the model's
two faults (log 11) are met in no legal state. -/
def Obligations.LegalStatesNeverStop : Prop :=
  ∀ s : State, s.Inv = true → ∃ t, step s = .next t

/-- 20_memory.md R58, R64, R65, R68; 60_exceptions.md R170, R186: the events stay in the spec's order: one request at a time,
each call answered before anything else is issued, one response after the last answer. -/
def Obligations.EventsStayInOrder : Prop :=
  ∀ s t : State, s.Inv = true → s.OrderlyLog → step s = .next t → t.OrderlyLog

/-- 20_memory.md R51, R57, R59; 40_frame_encoder.md R106; 00_scope.md R10: every transaction is one call to `BUS_ADDR` of a
whole frame of some payload, no answer delivers more than its frame, and `Delay(0)` is never issued. -/
def Obligations.EventsStayProper : Prop :=
  ∀ s t : State, s.ProperLog → step s = .next t → t.ProperLog

/-- 10_state.md R21, 41_init_sequencer.md R150: the only phase changes: UNINIT to INITIALIZING as an INIT is
accepted, INITIALIZING to READY as step 10 completes, and any phase to UNINIT on reset. Which step of the model each of them is
in, is its granularity (log 1). -/
def Obligations.OnlyListedPhaseChanges : Prop :=
  ∀ s t : State, s.Inv = true → step s = .next t →
    t.phase = s.phase ∨
    (s.phase = .uninit ∧ t.phase = .initializing ∧ s.busy = false ∧ t.cur = 0x2000#16 ∧
      t.log = s.log ++ [.accepted 0x2000#16]) ∨
    (s.phase = .initializing ∧ t.phase = .ready ∧ s.initStep = 10#4 ∧ ∃ r, s.pending = .busDone r) ∨
    (t.phase = .uninit ∧ resetNext s = true)

/-- 10_state.md R22, R38: with no reset, `init_step` stays, or advances by exactly 1 up to 10, or returns to 0 from 10. That
it stays at `k` between the last answer of step `k` and the next step, and is 1 from the acceptance on, are the model's readings
(log 21, 1). -/
def Obligations.InitStepAdvancesByOne : Prop :=
  ∀ s t : State, s.Inv = true → resetNext s = false → step s = .next t →
    t.initStep = s.initStep ∨
    (t.initStep.toNat = s.initStep.toNat + 1 ∧ t.initStep.toNat ≤ 10 ∧ t.phase = .initializing) ∨
    (s.initStep = 10#4 ∧ t.initStep = 0#4 ∧ t.phase = .ready)

/-- 10_state.md R30, R31, R36; 60_exceptions.md R180: without a reset the counter never falls and the sticky flags stay
set, and the counter rises by at most one a step. -/
def Obligations.RecordsOnlyAccumulate : Prop :=
  ∀ s t : State, resetNext s = false → step s = .next t →
    s.errCount.toNat ≤ t.errCount.toNat ∧ t.errCount.toNat ≤ s.errCount.toNat + 1 ∧
    (s.busErr = true → t.busErr = true) ∧ (s.reqErr = true → t.reqErr = true)

/-- 60_exceptions.md R170: "Every accepted request ends with exactly one response": over every step without a reset,
acceptances less responses move with `busy`. -/
def Obligations.OneResponsePerAcceptance : Prop :=
  ∀ s t : State, resetNext s = false → step s = .next t →
    (t.log.filter Event.isAccepted).length + (s.log.filter Event.isResponse).length + s.busy.toNat =
    (s.log.filter Event.isAccepted).length + (t.log.filter Event.isResponse).length + t.busy.toNat

/-- 40_frame_encoder.md R107, 41_init_sequencer.md R145, 10_state.md R39: open loop: two machines that differ only in what
the transport answered and in the error records move alike, for every step: the same words accepted, the same calls issued
in the same order, the same phase and step. -/
def Obligations.AnswersNeverChangeTheCourse : Prop :=
  ∀ s t : State, s.blind = t.blind → blindOutcome (step s) = blindOutcome (step t)

/-- 41_init_sequencer.md R147, 20_memory.md R67: what an INIT step does depends on its number alone: two blocks at the same
point of the sequence issue the same call next, whatever else their states hold. -/
def Obligations.InitStepsDependOnTheStepAlone : Prop :=
  ∀ s t s' t' : State, s.initStep = t.initStep → s.pending.blind = t.pending.blind → s.pending ≠ .none →
    exec .init s = .next s' → exec .init t = .next t' →
    t'.initStep = s'.initStep ∧ t'.pending.blind = s'.pending.blind ∧
    (s'.pending = .busTx → s.pending ≠ .busTx → t'.frameBuf = s'.frameBuf)

/-- 60_exceptions.md R190, R65: liveness under the fairness of the external agents: from every legal state with a request in
progress, an agenda in which transport and timing source keep answering and the block gets its turn, whatever the answers,
brings the request to its end, in READY or refused. The bound of 64 steps and the form of the agenda are the model's
granularity (log 1, 2). No request needs more than 15 answers (41_init_sequencer.md R148); sixteen rounds are enough from any
point of any request. -/
def Obligations.AnsweredRequestsEnd : Prop :=
  ∀ (s : State) (answers : List BusAnswer) (rest : List Input),
    s.Inv = true → s.busy = true → answers.length = 16 →
    s.agenda = (answers.flatMap fun a => [.quiet, .answer a, .quiet, .elapsed]) ++ rest →
    ∃ k t, k ≤ 64 ∧ Host.Core.run core k s = .next t ∧ t.finished = true ∧
      (t.phase = .ready ∨ refusesRequest t.lastCause = true)

/-! ### The assembler -/

/-- 30_encoding.md R81, R82: CMD and DATA are SENDBYTE 0 and SENDBYTE 1: `0x1000 | imm8` and `0x1100 | imm8`. And the other
rows of R80's table: SENDBYTE is `0x1000 | (rs << 8) | imm8`, INIT is `0x2000`, and `.word` is its value as it stands, legal or
not. -/
def Obligations.CmdAndDataExpandToSendByte : Prop :=
  (∀ n : Nat, n ≤ 255 →
    assembleStmt (.cmd n) = assembleStmt (.sendByte 0 n) ∧ assembleStmt (.data n) = assembleStmt (.sendByte 1 n) ∧
    assembleStmt (.cmd n) = .ok [0x1000#16 ||| BitVec.ofNat 16 n] ∧
    assembleStmt (.data n) = .ok [0x1100#16 ||| BitVec.ofNat 16 n] ∧
    ∀ rs : Nat, rs ≤ 1 →
      assembleStmt (.sendByte rs n) = .ok [0x1000#16 ||| (BitVec.ofNat 16 rs <<< 8) ||| BitVec.ofNat 16 n]) ∧
  assembleStmt .init = .ok [0x2000#16] ∧
  ∀ n : Nat, n ≤ 65535 → assembleStmt (.word n) = .ok [BitVec.ofNat 16 n]

/-- 30_encoding.md R83: STR is one DATA per character, in order, with no terminator, and nothing for the empty string. -/
def Obligations.StrExpandsToOneDataPerCharacter : Prop :=
  (∀ (c : Byte) (text : List Byte) (ws : List Word), assembleStmt (.str text) = .ok ws →
    assembleStmt (.str (c :: text)) = .ok ((0x1100#16 ||| BitVec.ofNat 16 c.toNat) :: ws)) ∧
  assembleStmt (.str []) = .ok [] ∧
  ∀ text : List Byte, ∃ ws, assembleStmt (.str text) = .ok ws ∧ ws.length = text.length ∧
    ws.map decode = text.map (fun c => .ok (.sendByte true c))

/-- 30_encoding.md R80, R84: the assembler refuses an `imm8` over 255 "by name and line", an `imm16` over 65535, and an `rs`
that is neither 0 nor 1. That the reasons of the refusal are `immRange` and `rsRange`, carry the value, and that `rs` is looked
at first, are the model's choices (log 19). -/
def Obligations.ImmediatesOutOfRangeAreRefused : Prop :=
  (∀ n : Nat, 255 < n →
    assembleStmt (.cmd n) = .error (.immRange n) ∧ assembleStmt (.data n) = .error (.immRange n) ∧
    ∀ rs : Nat, rs ≤ 1 → assembleStmt (.sendByte rs n) = .error (.immRange n)) ∧
  (∀ rs n : Nat, 1 < rs → assembleStmt (.sendByte rs n) = .error (.rsRange rs)) ∧
  ∀ n : Nat, 65535 < n → assembleStmt (.word n) = .error (.immRange n)

/-- 30_encoding.md R80, R84, R85: program text assembles to the words the spec lists. -/
def Obligations.ListedTextAssemblesAsListed : Prop :=
  assembleText ['C', 'M', 'D', ' ', '0', 'x', '2', '8'] = .ok [0x1028#16] ∧
  assembleText ['D', 'A', 'T', 'A', ' ', '\'', 'T', '\''] = .ok [0x1154#16] ∧
  assembleText ['S', 'E', 'N', 'D', 'B', 'Y', 'T', 'E', ' ', '1', ',', ' ', '0', 'x', 'F', 'F'] = .ok [0x11FF#16] ∧
  assembleText ['I', 'N', 'I', 'T'] = .ok [0x2000#16] ∧
  assembleText ['.', 'w', 'o', 'r', 'd', ' ', '0', 'x', '1', '2', '0', '0'] = .ok [0x1200#16]

/-! ### Reset between any two events, and the time of answered delays -/

/-- 70_reset_and_hazards.md R210, R212; 60_exceptions.md R189: a reset can fall right after an acceptance, before the first
call or response of the request: then nothing but the acceptance and the reset is logged, whatever the word. That acceptance
and reset are one step each is the model's granularity (log 1), the agenda that puts the reset there is its schedule (log 2),
and that the reset's byte count is ignored with no frame in flight is its reading (log 13). -/
def Obligations.ResetMayFollowAcceptance : Prop :=
  ∀ (s : State) (w : Word) (ws : List Word) (k : Fin 5) (rest : List Input),
    s.busy = false → s.port = w :: ws → s.agenda = [.quiet, .reset k] ++ rest →
    ∃ u t, step s = .next u ∧ u.busy = true ∧ u.cur = w ∧ step u = .next t ∧
      t.log = s.log ++ [.accepted w, .reset []] ∧ t.phase = .uninit ∧ t.busy = false ∧ t.pending = .none ∧
      t.port = ws ∧ t.agenda = rest

/-- The model's own measure (log 20, DEDUCED from 20_memory.md R66, 60_exceptions.md R184 and 70_reset_and_hazards.md R212,
R223): the least duration it reads off a log grows by `n` units as the timing source answers a pending `Delay(n)`, and by
nothing else: a delay that is pending, or that a reset abandons, adds none. -/
def Obligations.DelaysCountWhenAnswered : Prop :=
  ∀ s t : State, s.Inv = true → s.OrderlyLog → step s = .next t →
    delayUnits t.log = delayUnits s.log +
      (match s.pending, t.pending with
        | .delay n, .delayDone => n
        | _, _ => 0)

/-! ### The display controller's nibble pairing, read off the log -/

/-- 10_state.md R23, R24, 60_exceptions.md R170: the log leaves in progress exactly the request that `busy` and `cur` name: so
after reset, and every step keeps it so. -/
def Obligations.LogNamesTheRequest : Prop :=
  State.reset.NamesItsRequest ∧ ∀ s t : State, s.NamesItsRequest → step s = .next t → t.NamesItsRequest

/-- 70_reset_and_hazards.md R220; 20_memory.md R59: a transaction in flight that fails after `k` bytes leaves a controller that
was in step intact for 0 and 4, one nibble out for 2, and dependent on the controller for 1 and 3; and a frame delivered whole
leaves the pairing as it is. That the `k` bytes of a frame which a reset abandons (R212) move the pairing in the same way, where
R220 and R62 speak of a failed transaction alone, is the model's choice (log 23), and so is that they are delivered with the
reset (log 22). That a whole frame changes nothing for a controller that is out of step, also where the frame is
one of an INIT, whose steps 2 to 4 R216 names as what recovers, is the model's choice too (log 23). -/
def Obligations.CutFrameMovesThePairing : Prop :=
  ∀ (p : Pairing) (s : State) (rest : List Input), s.Inv = true → s.pending = .busTx →
    (∀ k : Fin 5, s.agenda = .answer (.fail k) :: rest ∨ s.agenda = .reset k :: rest → s.pairing p = .intact →
      ∃ t, step s = .next t ∧
        t.pairing p = if k = 0 ∨ k = 4 then .intact else if k = 2 then .oneNibbleOut else .controllerDependent) ∧
    (s.agenda = .answer .ok :: rest → ∃ t, step s = .next t ∧ t.pairing p = s.pairing p)

/-- 70_reset_and_hazards.md R216, R220, 41_init_sequencer.md R150: "Only reset and INIT recover the controller": a step brings
a controller that is out of step back exactly when it completes an INIT with code 0; and in READY, with no reset due, the block
stays there and the controller stays out of step, so that such an INIT can only follow a reset. That the controller is back at
the response, and only where every transaction of the INIT was answered Ok, is the model's choice (log 23). -/
def Obligations.OnlyResetAndInitRecoverThePairing : Prop :=
  ∀ (p : Pairing) (s t : State), s.Inv = true → s.NamesItsRequest → step s = .next t → s.pairing p ≠ .intact →
    (t.pairing p = .intact ↔ s.phase = .initializing ∧ t.phase = .ready ∧ t.lastCause = .ok) ∧
    (s.phase = .ready → resetNext s = false → t.phase = .ready ∧ t.pairing p ≠ .intact)
end

