-- ==== Sys2Proof/Laws/Display.lean ====
section
/-! SUPPORT. What one more event of the log tells of the request in progress and of the display controller. -/

namespace Sys2Proof.Machine

variable {s t : State}

@[simp] theorem runningRequest_append (log : List Event) (e : Event) :
    runningRequest (log ++ [e]) = runningAfter (runningRequest log) e := by
  simp [runningRequest]

@[simp] theorem displayOf_append (p : Pairing) (log : List Event) (e : Event) :
    displayOf p (log ++ [e]) = displayAfter (displayOf p log) e := by
  simp [displayOf]

/-- The display's view and the log agree on the request in progress. -/
theorem displayOf_running (p : Pairing) (log : List Event) : (displayOf p log).running = runningRequest log := by
  induction log using List.reverseRecOn with
  | nil => rfl
  | append_singleton log e ih => simp [displayAfter, ih]

/-- No delivered byte brings a controller back into step (70_reset_and_hazards.md R220). -/
theorem Pairing.after_ne_intact {p : Pairing} (h : p ≠ .intact) (bytes : List Byte) : p.after bytes ≠ .intact := by
  cases p with
  | intact => exact absurd rfl h
  | oneNibbleOut =>
    simp only [Pairing.after]
    split <;> simp
  | controllerDependent => simp [Pairing.after]

/-- An event brings a controller back only as the response 0 of an INIT. -/
theorem displayAfter_recovers {d : Display} {e : Event} (h : d.pairing ≠ .intact)
    (h' : (displayAfter d e).pairing = .intact) : e = .response .ok ∧ d.running = some (encode .init) := by
  rcases e with w | c | ⟨r, bytes⟩ | n | _ | c | bytes
  case busAnswer => exact absurd h' (Pairing.after_ne_intact h bytes)
  case reset => exact absurd h' (Pairing.after_ne_intact h bytes)
  case response =>
    cases c
    case ok =>
      by_cases hr : d.running = some (encode .init)
      · exact ⟨rfl, hr⟩
      · simp [displayAfter, hr, h] at h'
    all_goals exact absurd h' h
  all_goals exact absurd h' h

/-- One more event of the log, as the pairing sees it. -/
theorem pairing_of_log (p : Pairing) {e : Event} (h : t.log = s.log ++ [e]) :
    t.pairing p = (displayAfter (displayOf p s.log) e).pairing := by
  simp [State.pairing, h]

/-- A log that does not grow leaves the pairing. -/
theorem pairing_of_log_eq (p : Pairing) (h : t.log = s.log) : t.pairing p = s.pairing p := by
  simp [State.pairing, h]

end Sys2Proof.Machine
end

