-- ==== Sys2Proof/Laws/Encoding.lean ====
section
/-! SUPPORT. The fields of an encoded request and of a word that decodes, one lemma each, for the encoding statements. -/

namespace Sys2Proof

/-- The four fields of the word of a SENDBYTE (30_encoding.md R72). -/
theorem sendByte_word_fields (rs : Bool) (payload : Byte) :
    opField (encode (.sendByte rs payload)) = 0x1#4 ∧ zField (encode (.sendByte rs payload)) = 0#3 ∧
    rsField (encode (.sendByte rs payload)) = rs ∧ payloadField (encode (.sendByte rs payload)) = payload := by
  revert payload
  cases rs <;> decide

/-- The two legal forms: what a word that decodes is (30_encoding.md R74). -/
theorem decode_ok_cases {w : Word} {i : Instr} (h : decode w = .ok i) :
    (opField w = 0x1#4 ∧ zField w = 0#3 ∧ i = .sendByte (rsField w) (payloadField w)) ∨
    (w = 0x2000#16 ∧ i = .init) := by
  unfold decode at h
  split at h
  · rename_i hs
    exact .inl ⟨hs.1, hs.2, by simpa using h.symm⟩
  · split at h
    · rename_i hw
      exact .inr ⟨hw, by simpa using h.symm⟩
    · cases h

/-- A word is reserved when neither form fits (30_encoding.md R74, R76). -/
theorem decode_error_iff (w : Word) :
    (∃ r, decode w = .error r) ↔ ¬ (opField w = 0x1#4 ∧ zField w = 0#3) ∧ w ≠ 0x2000#16 := by
  unfold decode
  split
  · simp_all
  · split <;> simp_all

/-- The fields of a word as numbers (30_encoding.md R70, R72). -/
theorem opField_toNat (w : Word) : (opField w).toNat = w.toNat / 4096 := by
  have := w.isLt
  simp [opField, Nat.shiftRight_eq_div_pow]
  omega

theorem zField_toNat (w : Word) : (zField w).toNat = w.toNat / 512 % 8 := by
  simp [zField, Nat.shiftRight_eq_div_pow]

end Sys2Proof
end

