-- ==== Sys2Proof/Laws/Frames.lean ====
section
/-! SUPPORT. The frames of the initialization sequence (41_init_sequencer.md R134 to R142), the lengths of frames and
delivered bytes, and the saturating increment as a number. -/

namespace Sys2Proof.Machine

theorem frameOf_functionSet8 : frameOf 0x30#8 false = ⟨0x3C#8, 0x38#8, 0x0C#8, 0x08#8⟩ := by decide
theorem frameOf_functionSet4 : frameOf 0x20#8 false = ⟨0x2C#8, 0x28#8, 0x0C#8, 0x08#8⟩ := by decide
theorem frameOf_functionSet : frameOf (cmdFunctionSet ||| 0x08#8) false = ⟨0x2C#8, 0x28#8, 0x8C#8, 0x88#8⟩ := by decide
theorem frameOf_displayControl : frameOf (cmdDisplayControl ||| 0x04#8) false = ⟨0x0C#8, 0x08#8, 0xCC#8, 0xC8#8⟩ := by decide
theorem frameOf_clearDisplay : frameOf cmdClearDisplay false = ⟨0x0C#8, 0x08#8, 0x1C#8, 0x18#8⟩ := by decide
theorem frameOf_entryModeSet : frameOf (cmdEntryModeSet ||| 0x02#8) false = ⟨0x0C#8, 0x08#8, 0x6C#8, 0x68#8⟩ := by decide
theorem frameOf_returnHome : frameOf cmdReturnHome false = ⟨0x0C#8, 0x08#8, 0x2C#8, 0x28#8⟩ := by decide

/-- A frame has four bytes (20_memory.md R57). -/
@[simp] theorem frameBytes_length (f : Frame) : (frameBytes f).length = frameLen := rfl

/-- An answer delivers at most the frame (20_memory.md R59). -/
theorem deliveredBytes_length_le (a : BusAnswer) (f : Frame) : (deliveredBytes a f).length ≤ frameLen := by
  cases a <;> simp [deliveredBytes, frameLen]

/-- The saturating increment as a number (60_exceptions.md R173). -/
theorem saturatingIncrement_toNat (n : BitVec 16) :
    (saturatingIncrement n).toNat = min (n.toNat + 1) 0xFFFF := by
  simp only [saturatingIncrement, BitVec.toNat_ofNat]
  omega

end Sys2Proof.Machine
end

