-- ==== Sys2Proof/Laws/State.lean ====
section
/-! SUPPORT. One lemma per field for each operation that updates the state, so that no later proof unfolds a record update. -/

namespace Sys2Proof.Machine

@[simp] theorem logged_phase (e : Event) (s : State) : (logged e s).phase = s.phase := rfl
@[simp] theorem logged_initStep (e : Event) (s : State) : (logged e s).initStep = s.initStep := rfl
@[simp] theorem logged_busy (e : Event) (s : State) : (logged e s).busy = s.busy := rfl
@[simp] theorem logged_cur (e : Event) (s : State) : (logged e s).cur = s.cur := rfl
@[simp] theorem logged_frameBuf (e : Event) (s : State) : (logged e s).frameBuf = s.frameBuf := rfl
@[simp] theorem logged_anyFail (e : Event) (s : State) : (logged e s).anyFail = s.anyFail := rfl
@[simp] theorem logged_errCount (e : Event) (s : State) : (logged e s).errCount = s.errCount := rfl
@[simp] theorem logged_busErr (e : Event) (s : State) : (logged e s).busErr = s.busErr := rfl
@[simp] theorem logged_reqErr (e : Event) (s : State) : (logged e s).reqErr = s.reqErr := rfl
@[simp] theorem logged_lastCause (e : Event) (s : State) : (logged e s).lastCause = s.lastCause := rfl
@[simp] theorem logged_pending (e : Event) (s : State) : (logged e s).pending = s.pending := rfl
@[simp] theorem logged_port (e : Event) (s : State) : (logged e s).port = s.port := rfl
@[simp] theorem logged_agenda (e : Event) (s : State) : (logged e s).agenda = s.agenda := rfl
@[simp] theorem logged_log (e : Event) (s : State) : (logged e s).log = s.log ++ [e] := rfl
@[simp] theorem logged_draws (e : Event) (s : State) : (logged e s).draws = s.draws := rfl

@[simp] theorem enterSequence_phase (s : State) : (enterSequence s).phase = .initializing := rfl
@[simp] theorem enterSequence_initStep (s : State) : (enterSequence s).initStep = 1#4 := rfl
@[simp] theorem enterSequence_busy (s : State) : (enterSequence s).busy = s.busy := rfl
@[simp] theorem enterSequence_cur (s : State) : (enterSequence s).cur = s.cur := rfl
@[simp] theorem enterSequence_frameBuf (s : State) : (enterSequence s).frameBuf = s.frameBuf := rfl
@[simp] theorem enterSequence_anyFail (s : State) : (enterSequence s).anyFail = false := rfl
@[simp] theorem enterSequence_errCount (s : State) : (enterSequence s).errCount = s.errCount := rfl
@[simp] theorem enterSequence_busErr (s : State) : (enterSequence s).busErr = s.busErr := rfl
@[simp] theorem enterSequence_reqErr (s : State) : (enterSequence s).reqErr = s.reqErr := rfl
@[simp] theorem enterSequence_lastCause (s : State) : (enterSequence s).lastCause = s.lastCause := rfl
@[simp] theorem enterSequence_pending (s : State) : (enterSequence s).pending = s.pending := rfl
@[simp] theorem enterSequence_port (s : State) : (enterSequence s).port = s.port := rfl
@[simp] theorem enterSequence_agenda (s : State) : (enterSequence s).agenda = s.agenda := rfl
@[simp] theorem enterSequence_log (s : State) : (enterSequence s).log = s.log := rfl
@[simp] theorem enterSequence_draws (s : State) : (enterSequence s).draws = s.draws := rfl

@[simp] theorem enter_phase (w : Word) (s : State) : (enter w s).phase = (if startsSequence w s.phase then .initializing else s.phase) := by cases h : startsSequence w s.phase <;> simp [enter, h]
@[simp] theorem enter_initStep (w : Word) (s : State) : (enter w s).initStep = (if startsSequence w s.phase then 1#4 else s.initStep) := by cases h : startsSequence w s.phase <;> simp [enter, h]
@[simp] theorem enter_busy (w : Word) (s : State) : (enter w s).busy = s.busy := by cases h : startsSequence w s.phase <;> simp [enter, h]
@[simp] theorem enter_cur (w : Word) (s : State) : (enter w s).cur = s.cur := by cases h : startsSequence w s.phase <;> simp [enter, h]
@[simp] theorem enter_frameBuf (w : Word) (s : State) : (enter w s).frameBuf = s.frameBuf := by cases h : startsSequence w s.phase <;> simp [enter, h]
@[simp] theorem enter_anyFail (w : Word) (s : State) : (enter w s).anyFail = (!startsSequence w s.phase && s.anyFail) := by cases h : startsSequence w s.phase <;> simp [enter, h]
@[simp] theorem enter_errCount (w : Word) (s : State) : (enter w s).errCount = s.errCount := by cases h : startsSequence w s.phase <;> simp [enter, h]
@[simp] theorem enter_busErr (w : Word) (s : State) : (enter w s).busErr = s.busErr := by cases h : startsSequence w s.phase <;> simp [enter, h]
@[simp] theorem enter_reqErr (w : Word) (s : State) : (enter w s).reqErr = s.reqErr := by cases h : startsSequence w s.phase <;> simp [enter, h]
@[simp] theorem enter_lastCause (w : Word) (s : State) : (enter w s).lastCause = s.lastCause := by cases h : startsSequence w s.phase <;> simp [enter, h]
@[simp] theorem enter_pending (w : Word) (s : State) : (enter w s).pending = s.pending := by cases h : startsSequence w s.phase <;> simp [enter, h]
@[simp] theorem enter_port (w : Word) (s : State) : (enter w s).port = s.port := by cases h : startsSequence w s.phase <;> simp [enter, h]
@[simp] theorem enter_agenda (w : Word) (s : State) : (enter w s).agenda = s.agenda := by cases h : startsSequence w s.phase <;> simp [enter, h]
@[simp] theorem enter_log (w : Word) (s : State) : (enter w s).log = s.log := by cases h : startsSequence w s.phase <;> simp [enter, h]
@[simp] theorem enter_draws (w : Word) (s : State) : (enter w s).draws = s.draws := by cases h : startsSequence w s.phase <;> simp [enter, h]

@[simp] theorem accept_phase (w : Word) (s : State) : (accept w s).phase = (if startsSequence w s.phase then .initializing else s.phase) := enter_phase w _
@[simp] theorem accept_initStep (w : Word) (s : State) : (accept w s).initStep = (if startsSequence w s.phase then 1#4 else s.initStep) := enter_initStep w _
@[simp] theorem accept_busy (w : Word) (s : State) : (accept w s).busy = true := enter_busy w _
@[simp] theorem accept_cur (w : Word) (s : State) : (accept w s).cur = w := enter_cur w _
@[simp] theorem accept_frameBuf (w : Word) (s : State) : (accept w s).frameBuf = s.frameBuf := enter_frameBuf w _
@[simp] theorem accept_anyFail (w : Word) (s : State) : (accept w s).anyFail = (!startsSequence w s.phase && s.anyFail) := enter_anyFail w _
@[simp] theorem accept_errCount (w : Word) (s : State) : (accept w s).errCount = s.errCount := enter_errCount w _
@[simp] theorem accept_busErr (w : Word) (s : State) : (accept w s).busErr = s.busErr := enter_busErr w _
@[simp] theorem accept_reqErr (w : Word) (s : State) : (accept w s).reqErr = s.reqErr := enter_reqErr w _
@[simp] theorem accept_lastCause (w : Word) (s : State) : (accept w s).lastCause = s.lastCause := enter_lastCause w _
@[simp] theorem accept_pending (w : Word) (s : State) : (accept w s).pending = .none := enter_pending w _
@[simp] theorem accept_port (w : Word) (s : State) : (accept w s).port = s.port := enter_port w _
@[simp] theorem accept_agenda (w : Word) (s : State) : (accept w s).agenda = s.agenda := enter_agenda w _
@[simp] theorem accept_log (w : Word) (s : State) : (accept w s).log = s.log ++ [.accepted w] := congrArg (· ++ [Event.accepted w]) (enter_log w _)
@[simp] theorem accept_draws (w : Word) (s : State) : (accept w s).draws = s.draws := enter_draws w _

@[simp] theorem passMoment_phase (s : State) : (passMoment s).phase = s.phase := rfl
@[simp] theorem passMoment_initStep (s : State) : (passMoment s).initStep = s.initStep := rfl
@[simp] theorem passMoment_busy (s : State) : (passMoment s).busy = s.busy := rfl
@[simp] theorem passMoment_cur (s : State) : (passMoment s).cur = s.cur := rfl
@[simp] theorem passMoment_frameBuf (s : State) : (passMoment s).frameBuf = s.frameBuf := rfl
@[simp] theorem passMoment_anyFail (s : State) : (passMoment s).anyFail = s.anyFail := rfl
@[simp] theorem passMoment_errCount (s : State) : (passMoment s).errCount = s.errCount := rfl
@[simp] theorem passMoment_busErr (s : State) : (passMoment s).busErr = s.busErr := rfl
@[simp] theorem passMoment_reqErr (s : State) : (passMoment s).reqErr = s.reqErr := rfl
@[simp] theorem passMoment_lastCause (s : State) : (passMoment s).lastCause = s.lastCause := rfl
@[simp] theorem passMoment_pending (s : State) : (passMoment s).pending = s.pending := rfl
@[simp] theorem passMoment_port (s : State) : (passMoment s).port = s.port := rfl
@[simp] theorem passMoment_agenda (s : State) : (passMoment s).agenda = s.agenda.tail := rfl
@[simp] theorem passMoment_log (s : State) : (passMoment s).log = s.log := rfl
@[simp] theorem passMoment_draws (s : State) : (passMoment s).draws = s.draws := rfl

@[simp] theorem respond_phase (c : Response) (s : State) : (respond c s).phase = s.phase := rfl
@[simp] theorem respond_initStep (c : Response) (s : State) : (respond c s).initStep = s.initStep := rfl
@[simp] theorem respond_busy (c : Response) (s : State) : (respond c s).busy = false := rfl
@[simp] theorem respond_cur (c : Response) (s : State) : (respond c s).cur = s.cur := rfl
@[simp] theorem respond_frameBuf (c : Response) (s : State) : (respond c s).frameBuf = s.frameBuf := rfl
@[simp] theorem respond_anyFail (c : Response) (s : State) : (respond c s).anyFail = s.anyFail := rfl
@[simp] theorem respond_errCount (c : Response) (s : State) : (respond c s).errCount = s.errCount := rfl
@[simp] theorem respond_busErr (c : Response) (s : State) : (respond c s).busErr = s.busErr := rfl
@[simp] theorem respond_reqErr (c : Response) (s : State) : (respond c s).reqErr = (s.reqErr || refusesRequest c) := rfl
@[simp] theorem respond_lastCause (c : Response) (s : State) : (respond c s).lastCause = c := rfl
@[simp] theorem respond_pending (c : Response) (s : State) : (respond c s).pending = .none := rfl
@[simp] theorem respond_port (c : Response) (s : State) : (respond c s).port = s.port := rfl
@[simp] theorem respond_agenda (c : Response) (s : State) : (respond c s).agenda = s.agenda := rfl
@[simp] theorem respond_log (c : Response) (s : State) : (respond c s).log = s.log ++ [.response c] := rfl
@[simp] theorem respond_draws (c : Response) (s : State) : (respond c s).draws = s.draws := rfl

@[simp] theorem recordBusError_phase (s : State) : (recordBusError s).phase = s.phase := rfl
@[simp] theorem recordBusError_initStep (s : State) : (recordBusError s).initStep = s.initStep := rfl
@[simp] theorem recordBusError_busy (s : State) : (recordBusError s).busy = s.busy := rfl
@[simp] theorem recordBusError_cur (s : State) : (recordBusError s).cur = s.cur := rfl
@[simp] theorem recordBusError_frameBuf (s : State) : (recordBusError s).frameBuf = s.frameBuf := rfl
@[simp] theorem recordBusError_anyFail (s : State) : (recordBusError s).anyFail = s.anyFail := rfl
@[simp] theorem recordBusError_errCount (s : State) : (recordBusError s).errCount = saturatingIncrement s.errCount := rfl
@[simp] theorem recordBusError_busErr (s : State) : (recordBusError s).busErr = true := rfl
@[simp] theorem recordBusError_reqErr (s : State) : (recordBusError s).reqErr = s.reqErr := rfl
@[simp] theorem recordBusError_lastCause (s : State) : (recordBusError s).lastCause = s.lastCause := rfl
@[simp] theorem recordBusError_pending (s : State) : (recordBusError s).pending = s.pending := rfl
@[simp] theorem recordBusError_port (s : State) : (recordBusError s).port = s.port := rfl
@[simp] theorem recordBusError_agenda (s : State) : (recordBusError s).agenda = s.agenda := rfl
@[simp] theorem recordBusError_log (s : State) : (recordBusError s).log = s.log := rfl
@[simp] theorem recordBusError_draws (s : State) : (recordBusError s).draws = s.draws := rfl

@[simp] theorem sendFrame_phase (b : Byte) (rs : Bool) (s : State) : (sendFrame b rs s).phase = s.phase := rfl
@[simp] theorem sendFrame_initStep (b : Byte) (rs : Bool) (s : State) : (sendFrame b rs s).initStep = s.initStep := rfl
@[simp] theorem sendFrame_busy (b : Byte) (rs : Bool) (s : State) : (sendFrame b rs s).busy = s.busy := rfl
@[simp] theorem sendFrame_cur (b : Byte) (rs : Bool) (s : State) : (sendFrame b rs s).cur = s.cur := rfl
@[simp] theorem sendFrame_frameBuf (b : Byte) (rs : Bool) (s : State) : (sendFrame b rs s).frameBuf = frameOf b rs := rfl
@[simp] theorem sendFrame_anyFail (b : Byte) (rs : Bool) (s : State) : (sendFrame b rs s).anyFail = s.anyFail := rfl
@[simp] theorem sendFrame_errCount (b : Byte) (rs : Bool) (s : State) : (sendFrame b rs s).errCount = s.errCount := rfl
@[simp] theorem sendFrame_busErr (b : Byte) (rs : Bool) (s : State) : (sendFrame b rs s).busErr = s.busErr := rfl
@[simp] theorem sendFrame_reqErr (b : Byte) (rs : Bool) (s : State) : (sendFrame b rs s).reqErr = s.reqErr := rfl
@[simp] theorem sendFrame_lastCause (b : Byte) (rs : Bool) (s : State) : (sendFrame b rs s).lastCause = s.lastCause := rfl
@[simp] theorem sendFrame_pending (b : Byte) (rs : Bool) (s : State) : (sendFrame b rs s).pending = .busTx := rfl
@[simp] theorem sendFrame_port (b : Byte) (rs : Bool) (s : State) : (sendFrame b rs s).port = s.port := rfl
@[simp] theorem sendFrame_agenda (b : Byte) (rs : Bool) (s : State) : (sendFrame b rs s).agenda = s.agenda := rfl
@[simp] theorem sendFrame_log (b : Byte) (rs : Bool) (s : State) : (sendFrame b rs s).log = s.log ++ [.busTx (busCall (frameOf b rs))] := rfl
@[simp] theorem sendFrame_draws (b : Byte) (rs : Bool) (s : State) : (sendFrame b rs s).draws = s.draws := rfl

@[simp] theorem issueDelay_phase (n : Nat) (s : State) : (issueDelay n s).phase = s.phase := rfl
@[simp] theorem issueDelay_initStep (n : Nat) (s : State) : (issueDelay n s).initStep = s.initStep := rfl
@[simp] theorem issueDelay_busy (n : Nat) (s : State) : (issueDelay n s).busy = s.busy := rfl
@[simp] theorem issueDelay_cur (n : Nat) (s : State) : (issueDelay n s).cur = s.cur := rfl
@[simp] theorem issueDelay_frameBuf (n : Nat) (s : State) : (issueDelay n s).frameBuf = s.frameBuf := rfl
@[simp] theorem issueDelay_anyFail (n : Nat) (s : State) : (issueDelay n s).anyFail = s.anyFail := rfl
@[simp] theorem issueDelay_errCount (n : Nat) (s : State) : (issueDelay n s).errCount = s.errCount := rfl
@[simp] theorem issueDelay_busErr (n : Nat) (s : State) : (issueDelay n s).busErr = s.busErr := rfl
@[simp] theorem issueDelay_reqErr (n : Nat) (s : State) : (issueDelay n s).reqErr = s.reqErr := rfl
@[simp] theorem issueDelay_lastCause (n : Nat) (s : State) : (issueDelay n s).lastCause = s.lastCause := rfl
@[simp] theorem issueDelay_pending (n : Nat) (s : State) : (issueDelay n s).pending = .delay n := rfl
@[simp] theorem issueDelay_port (n : Nat) (s : State) : (issueDelay n s).port = s.port := rfl
@[simp] theorem issueDelay_agenda (n : Nat) (s : State) : (issueDelay n s).agenda = s.agenda := rfl
@[simp] theorem issueDelay_log (n : Nat) (s : State) : (issueDelay n s).log = s.log ++ [.delay n] := rfl
@[simp] theorem issueDelay_draws (n : Nat) (s : State) : (issueDelay n s).draws = s.draws := rfl

@[simp] theorem releaseFrame_phase (s : State) : (releaseFrame s).phase = s.phase := rfl
@[simp] theorem releaseFrame_initStep (s : State) : (releaseFrame s).initStep = s.initStep := rfl
@[simp] theorem releaseFrame_busy (s : State) : (releaseFrame s).busy = s.busy := rfl
@[simp] theorem releaseFrame_cur (s : State) : (releaseFrame s).cur = s.cur := rfl
@[simp] theorem releaseFrame_frameBuf (s : State) : (releaseFrame s).frameBuf = freeFrame s.draws := rfl
@[simp] theorem releaseFrame_anyFail (s : State) : (releaseFrame s).anyFail = s.anyFail := rfl
@[simp] theorem releaseFrame_errCount (s : State) : (releaseFrame s).errCount = s.errCount := rfl
@[simp] theorem releaseFrame_busErr (s : State) : (releaseFrame s).busErr = s.busErr := rfl
@[simp] theorem releaseFrame_reqErr (s : State) : (releaseFrame s).reqErr = s.reqErr := rfl
@[simp] theorem releaseFrame_lastCause (s : State) : (releaseFrame s).lastCause = s.lastCause := rfl
@[simp] theorem releaseFrame_pending (s : State) : (releaseFrame s).pending = s.pending := rfl
@[simp] theorem releaseFrame_port (s : State) : (releaseFrame s).port = s.port := rfl
@[simp] theorem releaseFrame_agenda (s : State) : (releaseFrame s).agenda = s.agenda := rfl
@[simp] theorem releaseFrame_log (s : State) : (releaseFrame s).log = s.log := rfl
@[simp] theorem releaseFrame_draws (s : State) : (releaseFrame s).draws = s.draws + 4 := rfl

@[simp] theorem delayAnswered_phase (s : State) : (delayAnswered s).phase = s.phase := rfl
@[simp] theorem delayAnswered_initStep (s : State) : (delayAnswered s).initStep = s.initStep := rfl
@[simp] theorem delayAnswered_busy (s : State) : (delayAnswered s).busy = s.busy := rfl
@[simp] theorem delayAnswered_cur (s : State) : (delayAnswered s).cur = s.cur := rfl
@[simp] theorem delayAnswered_frameBuf (s : State) : (delayAnswered s).frameBuf = s.frameBuf := rfl
@[simp] theorem delayAnswered_anyFail (s : State) : (delayAnswered s).anyFail = s.anyFail := rfl
@[simp] theorem delayAnswered_errCount (s : State) : (delayAnswered s).errCount = s.errCount := rfl
@[simp] theorem delayAnswered_busErr (s : State) : (delayAnswered s).busErr = s.busErr := rfl
@[simp] theorem delayAnswered_reqErr (s : State) : (delayAnswered s).reqErr = s.reqErr := rfl
@[simp] theorem delayAnswered_lastCause (s : State) : (delayAnswered s).lastCause = s.lastCause := rfl
@[simp] theorem delayAnswered_pending (s : State) : (delayAnswered s).pending = .delayDone := rfl
@[simp] theorem delayAnswered_port (s : State) : (delayAnswered s).port = s.port := rfl
@[simp] theorem delayAnswered_agenda (s : State) : (delayAnswered s).agenda = s.agenda := rfl
@[simp] theorem delayAnswered_log (s : State) : (delayAnswered s).log = s.log ++ [.delayAnswer] := rfl
@[simp] theorem delayAnswered_draws (s : State) : (delayAnswered s).draws = s.draws := rfl

@[simp] theorem takeReset_phase (k : Fin 5) (s : State) : (takeReset k s).phase = .uninit := rfl
@[simp] theorem takeReset_initStep (k : Fin 5) (s : State) : (takeReset k s).initStep = 0#4 := rfl
@[simp] theorem takeReset_busy (k : Fin 5) (s : State) : (takeReset k s).busy = false := rfl
@[simp] theorem takeReset_cur (k : Fin 5) (s : State) : (takeReset k s).cur = Config.freeWord s.draws := rfl
@[simp] theorem takeReset_frameBuf (k : Fin 5) (s : State) : (takeReset k s).frameBuf = freeFrame s.draws := rfl
@[simp] theorem takeReset_anyFail (k : Fin 5) (s : State) : (takeReset k s).anyFail = false := rfl
@[simp] theorem takeReset_errCount (k : Fin 5) (s : State) : (takeReset k s).errCount = 0#16 := rfl
@[simp] theorem takeReset_busErr (k : Fin 5) (s : State) : (takeReset k s).busErr = false := rfl
@[simp] theorem takeReset_reqErr (k : Fin 5) (s : State) : (takeReset k s).reqErr = false := rfl
@[simp] theorem takeReset_lastCause (k : Fin 5) (s : State) : (takeReset k s).lastCause = .ok := rfl
@[simp] theorem takeReset_pending (k : Fin 5) (s : State) : (takeReset k s).pending = .none := rfl
@[simp] theorem takeReset_port (k : Fin 5) (s : State) : (takeReset k s).port = s.port := rfl
@[simp] theorem takeReset_agenda (k : Fin 5) (s : State) : (takeReset k s).agenda = s.agenda := rfl
@[simp] theorem takeReset_log (k : Fin 5) (s : State) : (takeReset k s).log = s.log ++ [.reset (abandonedBytes k s)] := rfl
@[simp] theorem takeReset_draws (k : Fin 5) (s : State) : (takeReset k s).draws = s.draws + 4 := rfl

@[simp] theorem noteFailure_phase (r : BusResult) (s : State) : (noteFailure r s).phase = s.phase := rfl
@[simp] theorem noteFailure_initStep (r : BusResult) (s : State) : (noteFailure r s).initStep = s.initStep := rfl
@[simp] theorem noteFailure_busy (r : BusResult) (s : State) : (noteFailure r s).busy = s.busy := rfl
@[simp] theorem noteFailure_cur (r : BusResult) (s : State) : (noteFailure r s).cur = s.cur := rfl
@[simp] theorem noteFailure_frameBuf (r : BusResult) (s : State) : (noteFailure r s).frameBuf = s.frameBuf := rfl
@[simp] theorem noteFailure_anyFail (r : BusResult) (s : State) : (noteFailure r s).anyFail = (s.anyFail || isFailure r) := rfl
@[simp] theorem noteFailure_errCount (r : BusResult) (s : State) : (noteFailure r s).errCount = s.errCount := rfl
@[simp] theorem noteFailure_busErr (r : BusResult) (s : State) : (noteFailure r s).busErr = s.busErr := rfl
@[simp] theorem noteFailure_reqErr (r : BusResult) (s : State) : (noteFailure r s).reqErr = s.reqErr := rfl
@[simp] theorem noteFailure_lastCause (r : BusResult) (s : State) : (noteFailure r s).lastCause = s.lastCause := rfl
@[simp] theorem noteFailure_pending (r : BusResult) (s : State) : (noteFailure r s).pending = s.pending := rfl
@[simp] theorem noteFailure_port (r : BusResult) (s : State) : (noteFailure r s).port = s.port := rfl
@[simp] theorem noteFailure_agenda (r : BusResult) (s : State) : (noteFailure r s).agenda = s.agenda := rfl
@[simp] theorem noteFailure_log (r : BusResult) (s : State) : (noteFailure r s).log = s.log := rfl
@[simp] theorem noteFailure_draws (r : BusResult) (s : State) : (noteFailure r s).draws = s.draws := rfl

@[simp] theorem completeInit_phase (s : State) : (completeInit s).phase = .ready := rfl
@[simp] theorem completeInit_initStep (s : State) : (completeInit s).initStep = 0#4 := rfl
@[simp] theorem completeInit_busy (s : State) : (completeInit s).busy = false := rfl
@[simp] theorem completeInit_cur (s : State) : (completeInit s).cur = s.cur := rfl
@[simp] theorem completeInit_frameBuf (s : State) : (completeInit s).frameBuf = s.frameBuf := rfl
@[simp] theorem completeInit_anyFail (s : State) : (completeInit s).anyFail = s.anyFail := rfl
@[simp] theorem completeInit_errCount (s : State) : (completeInit s).errCount = s.errCount := rfl
@[simp] theorem completeInit_busErr (s : State) : (completeInit s).busErr = s.busErr := rfl
@[simp] theorem completeInit_reqErr (s : State) : (completeInit s).reqErr = s.reqErr := by cases h : s.anyFail <;> simp [completeInit, respond, logged, refusesRequest, h]
@[simp] theorem completeInit_lastCause (s : State) : (completeInit s).lastCause = (if s.anyFail then .busTransportError else .ok) := rfl
@[simp] theorem completeInit_pending (s : State) : (completeInit s).pending = .none := rfl
@[simp] theorem completeInit_port (s : State) : (completeInit s).port = s.port := rfl
@[simp] theorem completeInit_agenda (s : State) : (completeInit s).agenda = s.agenda := rfl
@[simp] theorem completeInit_log (s : State) : (completeInit s).log = s.log ++ [.response (if s.anyFail then .busTransportError else .ok)] := rfl
@[simp] theorem completeInit_draws (s : State) : (completeInit s).draws = s.draws := rfl

@[simp] theorem busAnswered_phase (a : BusAnswer) (s : State) : (busAnswered a s).phase = s.phase := by cases a <;> rfl
@[simp] theorem busAnswered_initStep (a : BusAnswer) (s : State) : (busAnswered a s).initStep = s.initStep := by cases a <;> rfl
@[simp] theorem busAnswered_busy (a : BusAnswer) (s : State) : (busAnswered a s).busy = s.busy := by cases a <;> rfl
@[simp] theorem busAnswered_cur (a : BusAnswer) (s : State) : (busAnswered a s).cur = s.cur := by cases a <;> rfl
@[simp] theorem busAnswered_frameBuf (a : BusAnswer) (s : State) : (busAnswered a s).frameBuf = freeFrame s.draws := by cases a <;> rfl
@[simp] theorem busAnswered_anyFail (a : BusAnswer) (s : State) : (busAnswered a s).anyFail = s.anyFail := by cases a <;> rfl
@[simp] theorem busAnswered_errCount (a : BusAnswer) (s : State) : (busAnswered a s).errCount = (if isFailure (answerResult a) then saturatingIncrement s.errCount else s.errCount) := by cases a <;> simp [busAnswered, answerResult, isFailure]
@[simp] theorem busAnswered_busErr (a : BusAnswer) (s : State) : (busAnswered a s).busErr = (s.busErr || isFailure (answerResult a)) := by cases a <;> simp [busAnswered, answerResult, isFailure]
@[simp] theorem busAnswered_reqErr (a : BusAnswer) (s : State) : (busAnswered a s).reqErr = s.reqErr := by cases a <;> rfl
@[simp] theorem busAnswered_lastCause (a : BusAnswer) (s : State) : (busAnswered a s).lastCause = s.lastCause := by cases a <;> rfl
@[simp] theorem busAnswered_pending (a : BusAnswer) (s : State) : (busAnswered a s).pending = .busDone (answerResult a) := by cases a <;> rfl
@[simp] theorem busAnswered_port (a : BusAnswer) (s : State) : (busAnswered a s).port = s.port := by cases a <;> rfl
@[simp] theorem busAnswered_agenda (a : BusAnswer) (s : State) : (busAnswered a s).agenda = s.agenda := by cases a <;> rfl
@[simp] theorem busAnswered_log (a : BusAnswer) (s : State) : (busAnswered a s).log = s.log ++ [.busAnswer (answerResult a) (deliveredBytes a s.frameBuf)] := by cases a <;> rfl
@[simp] theorem busAnswered_draws (a : BusAnswer) (s : State) : (busAnswered a s).draws = s.draws + 4 := by cases a <;> rfl

end Sys2Proof.Machine
end

