-- ==== Sys2Proof/Laws/Ops.lean ====
section
/-! SUPPORT. What each shared operation can do, said once: proofs cite these and do not unfold the operations. -/

namespace Sys2Proof.Machine

variable {s t : State}

/-- The arm of SENDBYTE. -/
theorem exec_sendByte (rs : Bool) (b : Byte) (s : State) : exec (.sendByte rs b) s = execSendByte rs b s := rfl

/-- The arm of INIT. -/
theorem exec_init (s : State) : exec .init s = execInit s := rfl

/-- Every move of a SENDBYTE. -/
theorem execSendByte_cases {rs : Bool} {b : Byte} (h : execSendByte rs b s = .next t) :
    (s.pending = .none ∧ s.phase = .uninit ∧ t = respond .notReady s) ∨
    (s.pending = .none ∧ s.phase ≠ .uninit ∧ t = sendFrame b rs s) ∨
    (∃ r, s.pending = .busDone r ∧ t = respond (transactionResponse r) s) ∨
    (awaiting s.pending = true ∧ t = s) := by
  unfold execSendByte at h
  split at h
  · rename_i hp
    split at h <;> rename_i hph
    · exact .inl ⟨hp, hph, by simpa using h.symm⟩
    · exact .inr (.inl ⟨hp, hph, by simpa using h.symm⟩)
  · rename_i r hp
    exact .inr (.inr (.inl ⟨r, hp, by simpa using h.symm⟩))
  · rename_i hp
    exact .inr (.inr (.inr ⟨by simp [hp, awaiting], by simpa using h.symm⟩))
  · rename_i n hp
    exact .inr (.inr (.inr ⟨by simp [hp, awaiting], by simpa using h.symm⟩))
  · cases h

/-- Beginning an init step: its wait or its frame. -/
theorem beginInitStep_cases {k : BitVec 4} (h : beginInitStep k s = .next t) :
    (∃ n, initTable k = some (.waitOnly n) ∧ t = issueDelay n { s with initStep := k }) ∨
    (∃ b n, initTable k = some (.send b n) ∧ t = sendFrame b false { s with initStep := k }) := by
  unfold beginInitStep at h
  split at h
  · rename_i n hk
    exact .inl ⟨n, hk, by simpa using h.symm⟩
  · rename_i b n hk
    exact .inr ⟨b, n, hk, by simpa using h.symm⟩
  · cases h

/-- Leaving an init step: completion after step 10, else the next step. -/
theorem finishInitStep_cases (h : finishInitStep s = .next t) :
    (s.initStep = 10#4 ∧ t = completeInit s) ∨
    (s.initStep ≠ 10#4 ∧ beginInitStep (s.initStep + 1#4) s = .next t) := by
  unfold finishInitStep at h
  split at h <;> rename_i hk
  · exact .inl ⟨hk, by simpa using h.symm⟩
  · exact .inr ⟨hk, h⟩

/-- After an init step's transaction: its wait, or straight on. -/
theorem afterInitSend_cases {r : BusResult} (h : afterInitSend r s = .next t) :
    (∃ b n, initTable s.initStep = some (.send b n) ∧ n ≠ 0 ∧ t = issueDelay n (noteFailure r s)) ∨
    (∃ b, initTable s.initStep = some (.send b 0) ∧ finishInitStep (noteFailure r s) = .next t) := by
  unfold afterInitSend at h
  split at h
  · rename_i b n hk
    split at h <;> rename_i hn
    · subst hn
      exact .inr ⟨b, hk, h⟩
    · exact .inl ⟨b, n, hk, hn, by simpa using h.symm⟩
  · cases h
  · cases h

/-- Every move of an INIT. -/
theorem execInit_cases (h : execInit s = .next t) :
    (s.pending = .none ∧ s.phase = .ready ∧ t = respond .alreadyInitialized s) ∨
    (s.pending = .none ∧ s.phase ≠ .ready ∧ startInit s = .next t) ∨
    (∃ r, s.pending = .busDone r ∧ afterInitSend r s = .next t) ∨
    (s.pending = .delayDone ∧ finishInitStep s = .next t) ∨
    (awaiting s.pending = true ∧ t = s) := by
  unfold execInit at h
  split at h
  · rename_i hp
    split at h <;> rename_i hph
    · exact .inl ⟨hp, hph, by simpa using h.symm⟩
    · exact .inr (.inl ⟨hp, hph, h⟩)
  · rename_i r hp
    exact .inr (.inr (.inl ⟨r, hp, h⟩))
  · rename_i hp
    exact .inr (.inr (.inr (.inl ⟨hp, h⟩)))
  · rename_i hp
    exact .inr (.inr (.inr (.inr ⟨by simp [hp, awaiting], by simpa using h.symm⟩)))
  · rename_i n hp
    exact .inr (.inr (.inr (.inr ⟨by simp [hp, awaiting], by simpa using h.symm⟩)))

/-- `startInit` always starts step 1's wait. -/
theorem startInit_eq (s : State) :
    startInit s = .next (issueDelay 50 (enterSequence s)) := rfl

/-- The payloads, waits and steps of the sequence, by step number (41_init_sequencer.md R133 to R142). -/
theorem initTable_some {k : BitVec 4} {i : InitStep} (h : initTable k = some i) :
    1 ≤ k.toNat ∧ k.toNat ≤ 10 := by
  revert i
  revert k
  decide +revert

/-- Every number from 1 to 10 is a step. -/
theorem initTable_isSome {k : BitVec 4} (h : 1 ≤ k.toNat) (h' : k.toNat ≤ 10) : (initTable k).isSome = true := by
  revert k
  decide

/-- Executing a word: a reserved one is answered, a legal one runs. -/
theorem execute_cases {w : Word} (h : execute w s = .next t) :
    (∃ why, decode w = .error why ∧ t = respond .illegalRequest s) ∨
    (∃ i, decode w = .ok i ∧ exec i s = .next t) := by
  unfold execute at h
  split at h
  · rename_i i hi
    exact .inr ⟨i, hi, h⟩
  · rename_i why hw
    exact .inl ⟨why, hw, by simpa using h.symm⟩

/-- On the block's turn no reset is due. -/
theorem resetNext_of_blockTurn (h : blockTurn s = true) : resetNext s = false := by
  unfold blockTurn at h
  unfold resetNext
  split at h <;> simp_all

/-- On the block's turn the next input is the passing moment alone. -/
theorem arrive_of_blockTurn (h : blockTurn s = true) : arrive s = passMoment s := by
  unfold blockTurn at h
  split at h
  · rename_i ha
    simp only [arrive, passMoment, ha, List.tail_nil]
    cases s
    simp_all
  · rename_i rest ha
    simp [arrive, passMoment, ha, takeInput]
  · cases h

/-- Everything the block's own move can be: nothing, a move of the request in progress, an acceptance. -/
theorem ownMove_cases (h : ownMove s = .next t) :
    (((s.busy = true ∧ awaiting s.pending = true) ∨ (s.busy = false ∧ s.port = [])) ∧ t = s) ∨
    (s.busy = true ∧ awaiting s.pending = false ∧ execute s.cur s = .next t) ∨
    (s.busy = false ∧ ∃ w rest, s.port = w :: rest ∧ t = accept w { s with port := rest }) := by
  unfold ownMove at h
  split at h
  · rename_i hb
    split at h
    · rename_i hp
      exact .inl ⟨.inl ⟨hb, hp⟩, by simpa using h.symm⟩
    · rename_i hp
      exact .inr (.inl ⟨hb, by simpa using hp, h⟩)
  · rename_i hb
    have hb : s.busy = false := by simpa using hb
    split at h
    · rename_i w rest hw
      exact .inr (.inr ⟨hb, w, rest, hw, by simpa using h.symm⟩)
    · rename_i hw
      exact .inl ⟨.inr ⟨hb, hw⟩, by simpa using h.symm⟩

/-- Everything a step can be: the next input taking effect, a move of the request in progress, an acceptance. -/
theorem step_cases (h : step s = .next t) :
    ((blockTurn s = false ∨ (s.busy = true ∧ awaiting s.pending = true) ∨ (s.busy = false ∧ s.port = [])) ∧
      t = arrive s) ∨
    (blockTurn s = true ∧ s.busy = true ∧ awaiting s.pending = false ∧ execute s.cur (passMoment s) = .next t) ∨
    (blockTurn s = true ∧ s.busy = false ∧ ∃ w rest, s.port = w :: rest ∧
      t = accept w { passMoment s with port := rest }) := by
  unfold step advance at h
  split at h
  · rename_i hturn
    rcases ownMove_cases h with ⟨hidle, ht⟩ | ⟨hb, hp, hx⟩ | ⟨hb, hx⟩
    · exact .inl ⟨.inr hidle, ht.trans (arrive_of_blockTurn hturn).symm⟩
    · exact .inr (.inl ⟨hturn, hb, hp, hx⟩)
    · exact .inr (.inr ⟨hturn, hb, hx⟩)
  · rename_i hturn
    exact .inl ⟨.inl (by simpa using hturn), by simpa using h.symm⟩

/-- Everything the arrival of the next input can do. -/
theorem arrive_cases (s : State) :
    (s.agenda = [] ∧ arrive s = s) ∨
    ∃ i rest, s.agenda = i :: rest ∧
      ((∃ ws, ((∃ w, i = .submit w ∧ ws = s.port ++ [w]) ∨ (i = .withdraw ∧ ws = s.port.tail)) ∧
          arrive s = { s with agenda := rest, port := ws }) ∨
        (∃ a, i = .answer a ∧ s.pending = .busTx ∧ arrive s = busAnswered a { s with agenda := rest }) ∨
        (i = .elapsed ∧ (∃ n, s.pending = .delay n) ∧ arrive s = delayAnswered { s with agenda := rest }) ∨
        (∃ k, i = .reset k ∧ arrive s = takeReset k { s with agenda := rest }) ∨
        ((∀ k, i ≠ .reset k) ∧ (∀ w, i ≠ .submit w) ∧ i ≠ .withdraw ∧ (∀ a, i = .answer a → s.pending ≠ .busTx) ∧
          (∀ n, i = .elapsed → s.pending ≠ .delay n) ∧ arrive s = { s with agenda := rest })) := by
  rcases ha : s.agenda with _ | ⟨i, rest⟩
  · left
    simp [arrive, ha]
  · right
    refine ⟨i, rest, rfl, ?_⟩
    cases i <;> cases hp : s.pending <;> simp [arrive, ha, takeInput, hp]

/-- Reset is due exactly when it heads the agenda. -/
theorem resetNext_iff (s : State) : resetNext s = true ↔ ∃ k rest, s.agenda = .reset k :: rest := by
  unfold resetNext
  split <;> simp_all

end Sys2Proof.Machine
end

