-- ==== Sys2Proof/Laws/Legal.lean ====
section
/-! SUPPORT. The parts of `State.Inv` as propositions, and what the shared operations do to each. -/

namespace Sys2Proof.Machine

variable {s t : State}

theorem inv_iff : s.Inv = true ↔
    s.idleOk = true ∧ s.initStepOk = true ∧ s.requestOk = true ∧ s.recordsOk = true := by
  simp [State.Inv, and_assoc]

theorem idleOk_iff : s.idleOk = true ↔ (s.busy = false → s.pending = .none ∧ s.phase ≠ .initializing) := by
  simp only [State.idleOk, decide_eq_true_eq]

theorem initStepOk_iff : s.initStepOk = true ↔
    (s.phase = .initializing → 1 ≤ s.initStep.toNat ∧ s.initStep.toNat ≤ 10) ∧
    (s.phase ≠ .initializing → s.initStep = 0#4) := by
  simp only [State.initStepOk, decide_eq_true_eq]

theorem recordsOk_iff : s.recordsOk = true ↔
    (s.busErr = true ↔ s.errCount ≠ 0#16) ∧ (refusesRequest s.lastCause = true → s.reqErr = true) ∧
    (s.lastCause = .busTransportError → s.busErr = true) ∧ (s.anyFail = true → s.busErr = true) ∧
    (s.pending = .busDone .fail → s.busErr = true) := by
  simp only [State.recordsOk, decide_eq_true_eq]

/-- The counter is not 0 after a failure was counted (60_exceptions.md R173). -/
theorem saturatingIncrement_ne_zero (n : BitVec 16) : saturatingIncrement n ≠ 0#16 := by
  intro h
  have h' := congrArg BitVec.toNat h
  rw [saturatingIncrement_toNat] at h'
  simp at h'

/-- A response keeps the records in agreement; code 1 needs a recorded failure. -/
theorem respond_recordsOk {c : Response} (h : s.recordsOk = true)
    (hc : c = .busTransportError → s.busErr = true) : (respond c s).recordsOk = true := by
  rw [recordsOk_iff] at h ⊢
  obtain ⟨h1, h2, h3, h4, h5⟩ := h
  exact ⟨h1, fun hr => by simp at hr; simp [hr], fun hl => hc (by simpa using hl), h4, fun hp => by simp at hp⟩

/-- The arrival of an answer keeps the records in agreement. -/
theorem busAnswered_recordsOk {a : BusAnswer} (h : s.recordsOk = true) : (busAnswered a s).recordsOk = true := by
  rw [recordsOk_iff] at h ⊢
  obtain ⟨h1, h2, h3, h4, h5⟩ := h
  cases a with
  | ok =>
    simp only [busAnswered_busErr, busAnswered_errCount, busAnswered_lastCause, busAnswered_reqErr,
      busAnswered_anyFail, busAnswered_pending, answerResult, isFailure, Bool.or_false]
    exact ⟨h1, h2, h3, h4, fun hp => by simp at hp⟩
  | fail k =>
    simp only [busAnswered_busErr, busAnswered_errCount, busAnswered_lastCause, busAnswered_reqErr,
      busAnswered_anyFail, busAnswered_pending, answerResult, isFailure, Bool.or_true]
    exact ⟨by simp [saturatingIncrement_ne_zero], h2, fun _ => trivial, fun _ => trivial, fun _ => trivial⟩

/-- A move that touches no record but `any_fail`, and leaves no failure waiting, keeps the records in agreement. -/
theorem recordsOk_of_same (h : s.recordsOk = true) (hb : t.busErr = s.busErr) (he : t.errCount = s.errCount)
    (hr : t.reqErr = s.reqErr) (hl : t.lastCause = s.lastCause) (ha : t.anyFail = true → s.busErr = true)
    (hp : t.pending ≠ .busDone .fail) : t.recordsOk = true := by
  rw [recordsOk_iff] at h ⊢
  rw [hb, he, hr, hl]
  obtain ⟨h1, h2, h3, h4, h5⟩ := h
  exact ⟨h1, h2, h3, ha, fun hp' => absurd hp' hp⟩

end Sys2Proof.Machine
end

