-- ==== Sys2Proof/Laws/PerInstr.lean ====
section
/-! SUPPORT. Facts stated once per request: its word matches its row of spec/opcode_table.json. -/

/-- The word of a request lies in its row of the opcode table: under the row's mask it is the row's match
(30_encoding.md R72, R73). -/
def Sys2Proof.Laws.TableRow.Statement (i : Sys2Proof.Instr) : Prop :=
  Sys2Proof.encode i &&& Sys2Proof.rowMask i = Sys2Proof.rowMatch i

theorem Sys2Proof.Laws.TableRow.sendByte (rs : Bool) (payload : Sys2Proof.Byte) :
    Sys2Proof.Laws.TableRow.Statement (.sendByte rs payload) := by
  revert payload
  unfold Sys2Proof.Laws.TableRow.Statement
  cases rs <;> decide

theorem Sys2Proof.Laws.TableRow.init : Sys2Proof.Laws.TableRow.Statement .init := by
  unfold Sys2Proof.Laws.TableRow.Statement
  decide
end

