-- ==== Sys2Proof/Laws/Run.lean ====
section
/-! SUPPORT. Runs of the machine, one step at a time. -/

namespace Sys2Proof.Machine

/-- A run starts with its first step. -/
theorem run_succ (k : Nat) {s t : State} (h : step s = .next t) :
    Host.Core.run core (k + 1) s = Host.Core.run core k t := by
  have h' : core.step s = .next t := h
  simp only [Host.Core.run]
  rw [h']

/-- A run of no steps stays. -/
theorem run_zero (s : State) : Host.Core.run core 0 s = .next s := rfl

/-- While a call is unanswered a step is the next input taking effect, whosever turn it is. -/
theorem step_of_awaiting {s : State} (hb : s.busy = true) (hp : awaiting s.pending = true) :
    step s = .next (arrive s) := by
  unfold step advance
  split
  · rename_i hturn
    simp [ownMove, hb, hp, arrive_of_blockTurn hturn]
  · rfl

end Sys2Proof.Machine
end

