-- ==== Sys2Proof/Tests/Slice0.lean ====
section
/-! SUPPORT. Tests of the model against the spec's own vectors (95_test_vectors.md), the smoke tests of well-formedness,
and the witnesses of the statements' hypotheses. Expected values come from spec/, not from the model. -/

namespace Sys2Proof.Machine

/-- What `f` sees of a next state. -/
def seen {α : Type} (o : Host.Outcome State Fault Refusal) (f : State → α) : Option α :=
  match o with
  | .next t => some (f t)
  | _ => none

/-- `s` with `w` accepted and not yet run; an INIT in UNINIT has entered INITIALIZING. -/
def accepted (w : Word) (s : State) : State :=
  if w = 0x2000#16 ∧ s.phase = .uninit then
    { s with busy := true, cur := w, log := [.accepted w], phase := .initializing, initStep := 1#4, anyFail := false }
  else { s with busy := true, cur := w, log := [.accepted w] }

/-- The block in READY, idle. -/
def readyIdle : State := { State.reset with phase := .ready }

/-- A SENDBYTE of 0x28 as a command in READY, its transaction in flight. -/
def sending : State :=
  { readyIdle with
    busy := true
    cur := 0x1028#16
    frameBuf := ⟨0x2C#8, 0x28#8, 0x8C#8, 0x88#8⟩
    pending := .busTx
    log := [.accepted 0x1028#16, .busTx (busCall (frameOf 0x28#8 false))] }

/-- An INIT in step 1, its delay pending. -/
def waiting : State :=
  { State.reset with
    phase := .initializing
    initStep := 1#4
    busy := true
    cur := 0x2000#16
    pending := .delay 50
    log := [.accepted 0x2000#16, .delay 50] }

/-- An INIT in step `k`, its transaction answered `r`. -/
def answered (k : BitVec 4) (r : BusResult) : State :=
  { State.reset with phase := .initializing, initStep := k, busy := true, cur := 0x2000#16, pending := .busDone r }

/-- An INIT in step `k`, its delay answered. -/
def rested (k : BitVec 4) : State :=
  { State.reset with phase := .initializing, initStep := k, busy := true, cur := 0x2000#16, pending := .delayDone }

/-! ### Well-formedness -/

theorem test_rs_operand : rsOk 0 = true ∧ rsOk 1 = true ∧ rsOk 2 = false := by decide

theorem test_imm8_operand : imm8Ok 0 = true ∧ imm8Ok 255 = true ∧ imm8Ok 256 = false := by decide

theorem test_imm16_operand : imm16Ok 65535 = true ∧ imm16Ok 65536 = false := by decide

theorem test_text_character :
    textCharOk 0x1F = false ∧ textCharOk 0x20 = true ∧ textCharOk 0x7E = true ∧ textCharOk 0x7F = false := by decide

theorem test_instr_well_formed :
    (Instr.sendByte true 0xFF#8).wellFormed = true ∧ Instr.init.wellFormed = true := by decide

/-! ### Decoding and encoding: words written bit by bit from 30_encoding.md R72, R73, and L2.4 -/

theorem test_decode_sendbyte_command : decode 0b0001000010100101#16 = .ok (.sendByte false 0xA5#8) := by decide

theorem test_decode_sendbyte_data : decode 0b0001000101010100#16 = .ok (.sendByte true 0x54#8) := by decide

theorem test_decode_init : decode 0b0010000000000000#16 = .ok .init := by decide

theorem test_decode_reserved :
    decode 0x1200#16 = .error (.sendByteZ 1#3) ∧ decode 0x1E00#16 = .error (.sendByteZ 7#3) ∧
    decode 0x2001#16 = .error (.initOperand 1#12) ∧ decode 0x21FF#16 = .error (.initOperand 0x1FF#12) ∧
    decode 0x0000#16 = .error (.opcode 0#4) ∧ decode 0x3000#16 = .error (.opcode 3#4) ∧
    decode 0xF0FF#16 = .error (.opcode 15#4) := by decide

theorem test_encode :
    encode (.sendByte false 0xC0#8) = 0x10C0#16 ∧ encode (.sendByte true 0x3A#8) = 0x113A#16 ∧
    encode .init = 0x2000#16 := by decide

theorem test_table_words :
    decodeTableWord 16 0x1000 = some (.sendByte false 0x00#8) ∧ decodeTableWord 16 0x2000 = some .init ∧
    decodeTableWord 16 0x1E00 = none := by decide

/-! ### The frame: L2.1 -/

theorem test_frame_vectors :
    frameBytes (frameOf 0x30#8 false) = [0x3C#8, 0x38#8, 0x0C#8, 0x08#8] ∧
    frameBytes (frameOf 0xC0#8 false) = [0xCC#8, 0xC8#8, 0x0C#8, 0x08#8] ∧
    frameBytes (frameOf 0x54#8 true) = [0x5D#8, 0x59#8, 0x4D#8, 0x49#8] ∧
    frameBytes (frameOf 0x3A#8 true) = [0x3D#8, 0x39#8, 0xAD#8, 0xA9#8] := by decide

/-! ### One step of each instruction -/

/-- L2.2 rows 1 and 4: the frame of word 0x1028 in READY, with STATUS showing BUSY; and the refusal in UNINIT. -/
theorem test_sendbyte_starts :
    seen (step (accepted 0x1028#16 readyIdle)) (fun t => (t.frameBuf, t.pending, statusPort t 0#2)) =
      some (⟨0x2C#8, 0x28#8, 0x8C#8, 0x88#8⟩, .busTx, 0x0086#16) ∧
    seen (step (accepted 0x1001#16 State.reset)) (fun t => statusPort t 0#2) = some 0x0E80#16 := by decide

/-- L2.2 row 3: the counter is full, the transaction failed: STATUS 0x0582 and ERR_COUNT 0xFFFF. -/
theorem test_sendbyte_failure_saturates :
    seen (exec (.sendByte false 0x41#8) (recordBusError { sending with errCount := 0xFFFF#16, pending := .busDone .fail }))
        (fun t => (statusPort t 0#2, statusPort t 1#2)) = some (0x0582#16, 0xFFFF#16) := by decide

/-- L2.3, `k` = 1 and last row: INIT from reset stands in step 1 with STATUS 0x008D; INIT in READY leaves 0x1282. -/
theorem test_init_starts :
    seen (step (accepted 0x2000#16 State.reset)) (fun t => (t.pending, statusPort t 0#2)) =
      some (.delay 50, 0x008D#16) ∧
    seen (step (accepted 0x2000#16 readyIdle)) (fun t => statusPort t 0#2) = some 0x1282#16 := by decide

/-- L2.3, `k` = 6 and 10, rows 1 and 2: STATUS as steps 6 and 10 start, and at the end without and with a failure. -/
theorem test_init_goes_on :
    seen (exec .init (rested 5#4)) (fun t => statusPort t 0#2) = some 0x00B5#16 ∧
    seen (exec .init (answered 9#4 .ok)) (fun t => statusPort t 0#2) = some 0x00D5#16 ∧
    seen (exec .init (answered 10#4 .ok)) (fun t => statusPort t 0#2) = some 0x0082#16 ∧
    seen (exec .init { answered 10#4 .ok with anyFail := true, busErr := true, errCount := 1#16 })
      (fun t => statusPort t 0#2) = some 0x0582#16 := by decide

/-- L2.2 rows 6 and 7: a reserved word in READY, and in UNINIT, where a legal one would be NOT_READY. -/
theorem test_reserved_words :
    seen (step (accepted 0x1200#16 readyIdle)) (fun t => statusPort t 0#2) = some 0x0A82#16 ∧
    seen (step (accepted 0x1E00#16 State.reset)) (fun t => statusPort t 0#2) = some 0x0A80#16 := by decide

/-- L2.5: reset during step 8's delay. -/
theorem test_reset_during_init :
    seen (step { waiting with initStep := 8#4, pending := .delay 2, agenda := [.reset 0] })
      (fun t => (statusPort t 0#2, t.finished)) = some (0x0080#16, true) := by decide

/-- 60_exceptions.md R186, 10_state.md R21: acceptance latches the word at the port; an INIT's acceptance in UNINIT leaves
PHASE 1, BUSY and INIT_STEP 1 in STATUS (L2.3, `k` = 1). -/
theorem test_acceptance :
    seen (step { readyIdle with port := [0x1028#16, 0x2000#16], agenda := [.quiet] })
      (fun t => (t.cur, t.busy, t.port)) = some (0x1028#16, true, [0x2000#16]) ∧
    seen (step { State.reset with port := [0x2000#16] }) (fun t => statusPort t 0#2) = some 0x008D#16 := by decide

/-- 20_memory.md R66, 70_reset_and_hazards.md R212: a delay that a reset abandons, or that is pending, adds no time. -/
theorem test_delay_units :
    delayUnits [.delay 50, .reset []] = 0 ∧ delayUnits [.delay 50] = 0 ∧
    delayUnits [.delay 50, .delayAnswer, .delay 5, .delayAnswer] = 55 := by decide

/-- The host's question on both rows: the row's word is the first request run after reset. -/
theorem test_with_fetch_word :
    seen (step (State.reset.withFetchWord 16 0x2000)) (fun t => t.pending) = some (.delay 50) ∧
    seen (step (State.reset.withFetchWord 16 0x1000)) (fun t => t.lastCause) = some .notReady := by decide

/-! ### The assembler -/

/-- 30_encoding.md R85, fifth line. -/
theorem test_assemble_symbol :
    assembleText ['c', 'm', 'd', ' ', 'F', 'U', 'N', 'C', 'T', 'I', 'O', 'N', '_', 'S', 'E', 'T', '|', '0', 'x', '0', '8'] =
      .ok [0x1028#16] := by decide

/-- P2: `STR "27 C "` with a comment, after a blank line. -/
theorem test_assemble_string :
    assembleText ['\n', 'S', 'T', 'R', ' ', '"', '2', '7', ' ', 'C', ' ', '"', ' ', ';', 'x'] =
      .ok [0x1132#16, 0x1137#16, 0x1120#16, 0x1143#16, 0x1120#16] := by decide

/-- 30_encoding.md R84: an immediate over 255 is refused by line. -/
theorem test_assemble_range :
    assembleText ['I', 'N', 'I', 'T', '\n', 'C', 'M', 'D', ' ', '2', '5', '6'] = .error (2, .immRange 256) := by decide

/-! ### Witnesses of the statements' hypotheses, named after the statements -/

theorem witness_decodeOfEncodeIsTheRequest :
    (Instr.sendByte false 0x00#8).wellFormed = true ∧ (Instr.sendByte true 0xFF#8).wellFormed = true ∧
    Instr.init.wellFormed = true := by decide

theorem witness_encodeOfDecodeIsTheWord :
    decode 0x1000#16 = .ok (.sendByte false 0x00#8) ∧ decode 0x11FF#16 = .ok (.sendByte true 0xFF#8) ∧
    decode 0x2000#16 = .ok .init := by decide

theorem witness_reservedWordsAreIllegal :
    (∃ r, decode 0x0FFF#16 = .error r) ∧ (∃ r, decode 0x3000#16 = .error r) ∧ (∃ r, decode 0xFFFF#16 = .error r) ∧
    (∃ r, decode 0x1200#16 = .error r) ∧ (∃ r, decode 0x1FFF#16 = .error r) ∧ (∃ r, decode 0x2001#16 = .error r) ∧
    (∃ r, decode 0x2FFF#16 = .error r) := by
  refine ⟨⟨.opcode 0#4, ?_⟩, ⟨.opcode 3#4, ?_⟩, ⟨.opcode 15#4, ?_⟩, ⟨.sendByteZ 1#3, ?_⟩, ⟨.sendByteZ 7#3, ?_⟩,
    ⟨.initOperand 1#12, ?_⟩, ⟨.initOperand 0xFFF#12, ?_⟩⟩ <;> decide

theorem witness_frameHasAnInverse : frameOf 0xFF#8 true = frameOf 0xFF#8 true := rfl

theorem witness_sendByteIssuesItsFrame : readyIdle.phase = .ready ∧ readyIdle.pending = .none := by decide

theorem witness_sendByteRespondsToItsAnswer :
    ({ sending with pending := .busDone .ok } : State).pending = .busDone .ok ∧
    ({ sending with pending := .busDone .fail } : State).pending = .busDone .fail := by decide

/-- A SENDBYTE just accepted, to be answered `a`, with `rest` after that. -/
def started (a : BusAnswer) (rest : List Input) : State :=
  { readyIdle with busy := true, cur := 0x1028#16, agenda := [.answer a, .quiet] ++ rest }

theorem witness_sendByteRunsToItsResponse :
    (started .ok []).busy = true ∧ (started .ok []).phase = .ready ∧ (started .ok []).pending = .none ∧
    (started .ok []).cur = encode (.sendByte false 0x28#8) ∧ (started .ok []).agenda = [.answer .ok, .quiet] ++ [] ∧
    (started (.fail 4) [.reset 0]).agenda = [.answer (.fail 4), .quiet] ++ [.reset 0] := by decide

theorem witness_sendByteBeforeInitIsNotReady : State.reset.phase = .uninit ∧ State.reset.pending = .none := by decide

theorem witness_sendByteFrame :
    (∃ t, exec (.sendByte true 0x54#8) State.reset = .next t) ∧ (∃ t, exec (.sendByte true 0x54#8) readyIdle = .next t) ∧
    (∃ t, exec (.sendByte true 0x54#8) sending = .next t) ∧ (∃ t, exec (.sendByte true 0x54#8) waiting = .next t) :=
  ⟨⟨_, rfl⟩, ⟨_, rfl⟩, ⟨_, rfl⟩, ⟨_, rfl⟩⟩

theorem witness_initStartsWithThePowerOnWait :
    State.reset.phase ≠ .ready ∧ State.reset.pending = .none ∧
    (accepted 0x2000#16 State.reset).phase ≠ .ready ∧ (accepted 0x2000#16 State.reset).pending = .none := by decide

theorem witness_initInReadyIsAlreadyInitialized : readyIdle.phase = .ready ∧ readyIdle.pending = .none := by decide

theorem witness_initWaitsAfterItsFrames :
    ∀ k n, (k, n) ∈ [(2#4, 5), (3#4, 1), (4#4, 1), (5#4, 1), (8#4, 2)] →
      (answered k .fail).pending = .busDone .fail ∧ (answered k .fail).initStep = k := fun _ _ _ => ⟨rfl, rfl⟩

theorem witness_initSendsTheListedFrames :
    (rested 1#4).pending = .delayDone ∧ (rested 1#4).initStep = 1#4 ∧
    (rested 8#4).pending = .delayDone ∧ (rested 8#4).initStep = 8#4 ∧
    (answered 6#4 .ok).pending = .busDone .ok ∧ (answered 6#4 .ok).initStep = 6#4 ∧
    (answered 9#4 .fail).pending = .busDone .fail ∧ (answered 9#4 .fail).initStep = 9#4 := by decide

theorem witness_initCompletesAfterStepTen :
    (answered 10#4 .ok).pending = .busDone .ok ∧ (answered 10#4 .ok).initStep = 10#4 ∧
    (answered 10#4 .fail).pending = .busDone .fail := by decide

/-- What the agents do in the run of the witness below: nine answers, the failures delivering nothing, part or all. -/
def initAnswers : List Input :=
  [.elapsed, .answer .ok, .elapsed, .answer (.fail 0), .elapsed, .answer (.fail 1), .elapsed, .answer (.fail 2), .elapsed,
    .answer (.fail 3), .answer (.fail 4), .answer .ok, .elapsed, .answer .ok, .answer .ok]

/-- Reset with an INIT and one more word presented, the block's moments and the answers, and a reset at the end. -/
def initRun : State :=
  { State.reset with
    port := [0x2000#16, 0x1028#16]
    agenda := [.quiet, .quiet] ++ (initAnswers.flatMap fun i => [i, .quiet]) ++ [.reset 4] }

theorem witness_initTrace :
    initRun.busy = false ∧ initRun.phase = .uninit ∧ initRun.port = 0x2000#16 :: [0x1028#16] ∧
    initRun.agenda = [.quiet, .quiet] ++
      ([.elapsed, .answer .ok, .elapsed, .answer (.fail 0), .elapsed, .answer (.fail 1), .elapsed, .answer (.fail 2),
        .elapsed, .answer (.fail 3), .answer (.fail 4), .answer .ok, .elapsed, .answer .ok, .answer .ok].flatMap
        fun i => [i, .quiet]) ++ [.reset 4] := by decide

theorem witness_initFrame :
    (∃ t, exec .init State.reset = .next t) ∧ (∃ t, exec .init readyIdle = .next t) ∧
    (∃ t, exec .init (answered 2#4 .ok) = .next t) ∧ (∃ t, exec .init (rested 5#4) = .next t) ∧
    (∃ t, exec .init waiting = .next t) ∧ (∃ t, exec .init sending = .next t) :=
  ⟨⟨_, rfl⟩, ⟨_, rfl⟩, ⟨_, rfl⟩, ⟨_, rfl⟩, ⟨_, rfl⟩, ⟨_, rfl⟩⟩

/-- An idle block with an INIT, a SENDBYTE and a reserved word at its port, each kind of move, and each kind of turn. -/
theorem witness_stepRunsTheDecodedRequest :
    blockTurn { State.reset with port := [0x2000#16], agenda := [.quiet] } = true ∧ State.reset.busy = false ∧
    blockTurn { readyIdle with port := [0x1028#16] } = true ∧ readyIdle.busy = false ∧
    blockTurn (accepted 0x1028#16 readyIdle) = true ∧ (accepted 0x1028#16 readyIdle).busy = true ∧
    awaiting (accepted 0x1028#16 readyIdle).pending = false ∧
    decode (accepted 0x1028#16 readyIdle).cur = .ok (.sendByte false 0x28#8) ∧
    blockTurn (answered 2#4 .ok) = true ∧ (answered 2#4 .ok).busy = true ∧
    awaiting (answered 2#4 .ok).pending = false ∧ decode (answered 2#4 .ok).cur = .ok .init ∧
    awaiting (rested 2#4).pending = false ∧
    awaiting ({ sending with pending := .busDone .fail } : State).pending = false ∧
    ({ readyIdle with agenda := [.withdraw] } : State).agenda = .withdraw :: [] ∧ Input.withdraw ≠ .quiet ∧
    ({ readyIdle with agenda := [.submit 0x2000#16] } : State).agenda = .submit 0x2000#16 :: [] ∧
    blockTurn { readyIdle with agenda := [.quiet] } = true ∧ ({ readyIdle with agenda := [.quiet] } : State).port = [] := by
  decide

theorem witness_presentedTableWordRunsNext :
    decodeTableWord 16 0x2000 = some .init ∧ decodeTableWord 16 0x11FF = some (.sendByte true 0xFF#8) ∧
    State.reset.phase ≠ .initializing ∧ blockTurn State.reset = true ∧
    blockTurn { sending with agenda := [.reset 0] } = false := by decide

theorem witness_reservedWordIsAnsweredIllegal :
    blockTurn (accepted 0x3000#16 readyIdle) = true ∧ (accepted 0x3000#16 readyIdle).busy = true ∧
    (accepted 0x3000#16 readyIdle).pending = .none ∧
    decode (accepted 0x3000#16 readyIdle).cur = .error (.opcode 3#4) := by decide

theorem witness_refusedRequestsChangeOnlyTheResponse :
    (blockTurn (accepted 0x2000#16 readyIdle) = true ∧ (accepted 0x2000#16 readyIdle).busy = true ∧
      (accepted 0x2000#16 readyIdle).pending = .none ∧ (accepted 0x2000#16 readyIdle).phase = .ready ∧
      decode (accepted 0x2000#16 readyIdle).cur = .ok .init) ∧
    (blockTurn (accepted 0x1001#16 State.reset) = true ∧ (accepted 0x1001#16 State.reset).busy = true ∧
      (accepted 0x1001#16 State.reset).pending = .none ∧ (accepted 0x1001#16 State.reset).phase = .uninit ∧
      decode (accepted 0x1001#16 State.reset).cur = .ok (.sendByte false 0x01#8)) ∧
    (blockTurn (accepted 0x1E00#16 State.reset) = true ∧ (accepted 0x1E00#16 State.reset).busy = true ∧
      (accepted 0x1E00#16 State.reset).pending = .none ∧
      decode (accepted 0x1E00#16 State.reset).cur = .error (.sendByteZ 7#3)) := by decide

theorem witness_busyBlockHoldsPresentedWords :
    sending.busy = true ∧ (∃ t, step { sending with port := [0x2000#16], agenda := [.submit 0x1154#16] } = .next t) ∧
    ∃ t, step { sending with port := [0x2000#16], agenda := [.withdraw] } = .next t :=
  ⟨rfl, ⟨_, rfl⟩, ⟨_, rfl⟩⟩

theorem witness_transportAnswerIsRecorded :
    sending.busy = true ∧ sending.pending = .busTx ∧
    ({ sending with agenda := [.answer .ok] } : State).agenda = .answer .ok :: [] ∧
    ({ sending with agenda := [.answer (.fail 0)] } : State).agenda = .answer (.fail 0) :: [] ∧
    ({ sending with agenda := [.answer (.fail 4)] } : State).agenda = .answer (.fail 4) :: [] ∧
    waiting.busy = true ∧ waiting.pending = .delay 50 ∧
    ({ waiting with agenda := [.elapsed] } : State).agenda = .elapsed :: [] := by decide

/-- A full counter, for the clause of `BusErrorRecordSaturates` about it. -/
theorem witness_busErrorRecordSaturates :
    ({ readyIdle with errCount := 0xFFFF#16 } : State).errCount = 0xFFFF#16 := by decide

theorem witness_unansweredCallBlocks :
    sending.busy = true ∧ resetNext { sending with agenda := [.elapsed] } = false ∧ sending.pending = .busTx ∧
    (∀ a, ({ sending with agenda := [.elapsed] } : State).agenda.head? ≠ some (.answer a)) ∧
    waiting.busy = true ∧ resetNext { waiting with agenda := [.submit 0x1154#16] } = false ∧ waiting.pending = .delay 50 ∧
    ({ waiting with agenda := [.submit 0x1154#16] } : State).agenda.head? ≠ some .elapsed ∧
    (∀ a, sending.agenda.head? ≠ some (.answer a)) ∧ waiting.agenda.head? ≠ some .elapsed ∧
    resetNext { waiting with agenda := [.withdraw] } = false ∧
    ({ waiting with agenda := [.withdraw] } : State).agenda.head? ≠ some .elapsed := by
  refine ⟨rfl, rfl, rfl, ?_, rfl, rfl, rfl, ?_, ?_, ?_, rfl, ?_⟩ <;> simp [sending, waiting, readyIdle, State.reset]

theorem witness_resetRestoresTheBlock :
    ({ sending with agenda := [.reset 0] } : State).agenda = .reset 0 :: [] ∧
    ({ waiting with agenda := [.reset 4] } : State).agenda = .reset 4 :: [] := by decide

/-- A reset in each kind of flight; an answer that meets no call, in an idle block, in one whose turn to move it would be, and
in one that waits for another answer; and a late answer that meets another call. -/
theorem witness_resetAbandonsTheRequest :
    ({ sending with agenda := [.reset 3] } : State).agenda = .reset 3 :: [] ∧ sending.pending = .busTx ∧
    ({ waiting with agenda := [.reset 4] } : State).agenda = .reset 4 :: [] ∧ waiting.pending ≠ .busTx ∧
    (readyIdle.pending ≠ .busTx ∧ ({ readyIdle with agenda := [.answer .ok] } : State).agenda = .answer .ok :: []) ∧
    ((accepted 0x1028#16 readyIdle).pending ≠ .busTx ∧
      ({ accepted 0x1028#16 readyIdle with agenda := [.answer .ok] } : State).agenda = .answer .ok :: []) ∧
    ({ waiting with agenda := [.answer (.fail 2)] } : State).agenda = .answer (.fail 2) :: [] ∧
    ({ sending with agenda := [.lateAnswer .ok] } : State).agenda = .lateAnswer .ok :: [] ∧
    ({ State.reset with agenda := [.elapsed] } : State).agenda = .elapsed :: [] ∧ State.reset.pending = .none := by decide

theorem witness_priorityOfCauses :
    decode 0x1E00#16 = .error (.sendByteZ 7#3) ∧
    resetNext { sending with agenda := [.reset 2] } = true ∧
    (∃ t, step { sending with agenda := [.reset 2] } = .next t) ∧
    ∃ t, step { readyIdle with port := [0x1028#16], agenda := [.reset 0] } = .next t :=
  ⟨by decide, by decide, ⟨_, rfl⟩, ⟨_, rfl⟩⟩

/-- Two states that differ in all hidden state. -/
theorem witness_hiddenStateIsNotReadable :
    sending.phase = sending.phase ∧
    ({ sending with cur := 0xFFFF#16, anyFail := true, frameBuf := ⟨0#8, 0#8, 0#8, 0#8⟩, pending := .none, log := [] } :
      State).busy = sending.busy ∧ sending.cur ≠ 0xFFFF#16 := by decide

/-- Legal states: a SENDBYTE in flight, an INIT in a delay, an INIT about to complete, READY, and words just accepted. -/
theorem witness_legal_states :
    sending.Inv = true ∧ waiting.Inv = true ∧ (answered 10#4 .ok).Inv = true ∧ (rested 8#4).Inv = true ∧
    readyIdle.Inv = true ∧ (accepted 0x1028#16 readyIdle).Inv = true ∧ (accepted 0x3000#16 State.reset).Inv = true ∧
    (accepted 0x2000#16 State.reset).Inv = true ∧ (accepted 0x2000#16 readyIdle).Inv = true := by
  decide

theorem witness_stepKeepsStatesLegal :
    sending.Inv = true ∧ (∃ t, step { sending with agenda := [.answer (.fail 1)] } = .next t) ∧
    (answered 10#4 .ok).Inv = true ∧ ∃ t, step (answered 10#4 .ok) = .next t :=
  ⟨by decide, ⟨_, rfl⟩, by decide, ⟨_, rfl⟩⟩

theorem witness_legalStatesNeverStop : (rested 8#4).Inv = true ∧ sending.Inv = true := by decide

theorem witness_eventsStayInOrder :
    sending.Inv = true ∧ sending.OrderlyLog ∧ (∃ t, step { sending with agenda := [.answer .ok] } = .next t) ∧
    waiting.Inv = true ∧ waiting.OrderlyLog ∧ ∃ t, step { waiting with agenda := [.elapsed] } = .next t :=
  ⟨by decide, rfl, ⟨_, rfl⟩, by decide, rfl, ⟨_, rfl⟩⟩

theorem witness_eventsStayProper :
    sending.ProperLog ∧ ∃ t, step { sending with agenda := [.answer (.fail 4)] } = .next t := by
  refine ⟨?_, _, rfl⟩
  intro e he
  rcases List.mem_cons.mp he with rfl | he
  · trivial
  · rw [List.mem_singleton.mp he]
    exact ⟨0x28#8, false, rfl⟩

/-- One state for each of the four cases of `OnlyListedPhaseChanges`. -/
theorem witness_onlyListedPhaseChanges :
    (sending.Inv = true ∧ ∃ t, step sending = .next t) ∧
    (({ State.reset with port := [0x2000#16] } : State).Inv = true ∧
      ∃ t, step { State.reset with port := [0x2000#16] } = .next t ∧ t.phase = .initializing) ∧
    ((answered 10#4 .ok).Inv = true ∧ ∃ t, step (answered 10#4 .ok) = .next t ∧ t.phase = .ready) ∧
    (({ readyIdle with agenda := [.reset 0] } : State).Inv = true ∧
      ∃ t, step { readyIdle with agenda := [.reset 0] } = .next t ∧ t.phase = .uninit) :=
  ⟨⟨by decide, _, rfl⟩, ⟨by decide, _, rfl, rfl⟩, ⟨by decide, _, rfl, rfl⟩, ⟨by decide, _, rfl, rfl⟩⟩

/-- Steps that leave `init_step`, advance it up to 10, and clear it. -/
theorem witness_initStepAdvancesByOne :
    (waiting.Inv = true ∧ resetNext waiting = false ∧ ∃ t, step waiting = .next t) ∧
    ((answered 9#4 .ok).Inv = true ∧ resetNext (answered 9#4 .ok) = false ∧
      ∃ t, step (answered 9#4 .ok) = .next t ∧ t.initStep = 10#4) ∧
    ((answered 10#4 .ok).Inv = true ∧ resetNext (answered 10#4 .ok) = false ∧
      ∃ t, step (answered 10#4 .ok) = .next t ∧ t.initStep = 0#4) :=
  ⟨⟨by decide, rfl, _, rfl⟩, ⟨by decide, rfl, _, rfl, rfl⟩, ⟨by decide, rfl, _, rfl, rfl⟩⟩

theorem witness_recordsOnlyAccumulate :
    resetNext { sending with busErr := true, reqErr := true, agenda := [.answer (.fail 0)] } = false ∧
    (∃ t, step { sending with busErr := true, reqErr := true, agenda := [.answer (.fail 0)] } = .next t) ∧
    ∃ t, step { sending with errCount := 0xFFFF#16, agenda := [.answer (.fail 0)] } = .next t :=
  ⟨rfl, ⟨_, rfl⟩, ⟨_, rfl⟩⟩

theorem witness_oneResponsePerAcceptance :
    resetNext { readyIdle with port := [0x1028#16] } = false ∧
    (∃ t, step { readyIdle with port := [0x1028#16] } = .next t ∧ t.busy = true) ∧
    resetNext (answered 10#4 .ok) = false ∧ ∃ t, step (answered 10#4 .ok) = .next t ∧ t.busy = false :=
  ⟨rfl, ⟨_, rfl, rfl⟩, rfl, ⟨_, rfl, rfl⟩⟩

/-- Two machines that differ in the answer to come and in every error record. -/
theorem witness_answersNeverChangeTheCourse :
    ({ sending with agenda := [.answer .ok] } : State).blind =
      ({ sending with
          agenda := [.answer (.fail 2)], errCount := 7#16, busErr := true, anyFail := true
          lastCause := .busTransportError } : State).blind := rfl

/-- Two blocks at the same point of the sequence with different answers and records. -/
theorem witness_initStepsDependOnTheStepAlone :
    (answered 5#4 .ok).initStep = ({ answered 5#4 .fail with errCount := 9#16 } : State).initStep ∧
    (answered 5#4 .ok).pending.blind = ({ answered 5#4 .fail with errCount := 9#16 } : State).pending.blind ∧
    (answered 5#4 .ok).pending ≠ .none ∧ (∃ t, exec .init (answered 5#4 .ok) = .next t) ∧
    (∃ t, exec .init { answered 5#4 .fail with errCount := 9#16 } = .next t) ∧
    (rested 5#4).pending ≠ .none ∧ ∃ t, exec .init (rested 5#4) = .next t ∧ t.pending = .busTx :=
  ⟨rfl, rfl, by decide, ⟨_, rfl⟩, ⟨_, rfl⟩, by decide, ⟨_, rfl, rfl⟩⟩

/-- A request just accepted, with sixteen rounds of answers to come. -/
theorem witness_answeredRequestsEnd :
    let answers := List.replicate 16 (BusAnswer.fail 1)
    let s : State :=
      { accepted 0x2000#16 State.reset with
        agenda := (answers.flatMap fun a => [.quiet, .answer a, .quiet, .elapsed]) ++ [.reset 0] }
    s.Inv = true ∧ s.busy = true ∧ answers.length = 16 := by decide

theorem witness_resetMayFollowAcceptance :
    let s : State := { readyIdle with port := [0x1028#16], agenda := [.quiet, .reset 2] }
    s.busy = false ∧ s.port = 0x1028#16 :: [] ∧ s.agenda = [.quiet, .reset 2] ++ [] := by decide

/-- 70_reset_and_hazards.md R220: the first bytes of a frame; and two cut frames in a row, or a cut one and whole ones after
it, never lead back into step. -/
theorem test_pairing_stays_lost :
    pairingAfter [0x2C#8, 0x28#8] = .oneNibbleOut ∧
    ((Pairing.intact.after [0x2C#8, 0x28#8]).after [0x2C#8, 0x28#8]) ≠ .intact ∧
    ((Pairing.intact.after [0x2C#8, 0x28#8]).after [0x0C#8, 0x08#8, 0x1C#8, 0x18#8]) = .oneNibbleOut ∧
    ((Pairing.intact.after [0x2C#8]).after [0x0C#8, 0x08#8, 0x1C#8, 0x18#8]) = .controllerDependent := by decide

/-- 70_reset_and_hazards.md R216, R220: neither a SENDBYTE with code 0 nor a reset recovers the controller; a reset and an
INIT with code 0 do; an INIT with code 1 does not (log 23). -/
theorem test_reset_and_init_recover :
    let lost : List Event := [.accepted 0x1028#16, .busTx (busCall (frameOf 0x28#8 false)),
      .busAnswer .fail [0x2C#8, 0x28#8], .response .busTransportError]
    let init (e : Event) : List Event := [.reset [], .accepted 0x2000#16, .delay 50, .delayAnswer, e]
    (displayOf .intact lost).pairing = .oneNibbleOut ∧
    (displayOf .intact (lost ++ [.accepted 0x1028#16, .response .ok])).pairing = .oneNibbleOut ∧
    (displayOf .intact (lost ++ [.reset []])).pairing = .oneNibbleOut ∧
    (displayOf .intact (lost ++ init (.response .ok))).pairing = .intact ∧
    (displayOf .intact (lost ++ init (.response .busTransportError))).pairing = .oneNibbleOut := by decide

/-- A delay that is answered, and one that a reset abandons. -/
theorem witness_delaysCountWhenAnswered :
    (({ waiting with agenda := [.elapsed] } : State).Inv = true ∧ ({ waiting with agenda := [.elapsed] } : State).OrderlyLog ∧
      ∃ t, step { waiting with agenda := [.elapsed] } = .next t ∧ t.pending = .delayDone) ∧
    (({ waiting with agenda := [.reset 0] } : State).Inv = true ∧ ({ waiting with agenda := [.reset 0] } : State).OrderlyLog ∧
      ∃ t, step { waiting with agenda := [.reset 0] } = .next t ∧ t.pending = .none) :=
  ⟨⟨by decide, rfl, _, rfl, rfl⟩, ⟨by decide, rfl, _, rfl, rfl⟩⟩

theorem witness_cmdAndDataExpandToSendByte :
    (0 : Nat) ≤ 255 ∧ (255 : Nat) ≤ 255 ∧ (0 : Nat) ≤ 1 ∧ (1 : Nat) ≤ 1 ∧ (0 : Nat) ≤ 65535 ∧ (65535 : Nat) ≤ 65535 := by decide

theorem witness_strExpandsToOneDataPerCharacter :
    assembleStmt (.str [0x32#8, 0x37#8]) = .ok [0x1132#16, 0x1137#16] := by decide

theorem witness_immediatesOutOfRangeAreRefused :
    (255 : Nat) < 256 ∧ (0 : Nat) ≤ 1 ∧ (1 : Nat) ≤ 1 ∧ (1 : Nat) < 2 ∧ (65535 : Nat) < 65536 := by decide

theorem witness_logNamesTheRequest :
    sending.NamesItsRequest ∧ (∃ t, step { sending with agenda := [.answer .ok] } = .next t) ∧ waiting.NamesItsRequest ∧
    readyIdle.NamesItsRequest :=
  ⟨rfl, ⟨_, rfl⟩, rfl, rfl⟩

/-- The transaction of `sending` in flight, to meet `i`. -/
def meeting (i : Input) : State := { sending with agenda := [i] }

/-- A transaction in flight that is cut by a failure, cut by a reset, or delivered whole. -/
theorem witness_cutFrameMovesThePairing :
    (∀ i ∈ [Input.answer (.fail 2), .reset 3, .answer .ok], (meeting i).Inv = true ∧ (meeting i).pending = .busTx ∧ (meeting i).agenda = i :: [] ∧
      (meeting i).pairing .intact = .intact ∧ (meeting i).pairing .oneNibbleOut = .oneNibbleOut) ∧
    seen (step (meeting (.answer (.fail 2)))) (State.pairing .intact) = some .oneNibbleOut ∧
    seen (step (meeting (.reset 3))) (State.pairing .intact) = some .controllerDependent ∧
    seen (step (meeting (.answer (.fail 4)))) (State.pairing .intact) = some .intact :=
  ⟨by decide, rfl, rfl, rfl⟩

/-- An INIT about to complete with code 0. -/
def completing : State := { answered 10#4 .ok with log := [.accepted 0x2000#16] }

/-- An INIT about to complete, and a block in READY, the controller out of step. -/
theorem witness_onlyResetAndInitRecoverThePairing :
    (completing.Inv = true ∧ completing.NamesItsRequest ∧ completing.pairing .oneNibbleOut ≠ .intact ∧
      completing.phase = .initializing ∧ ∃ t, step completing = .next t ∧ t.phase = .ready ∧ t.lastCause = .ok) ∧
    ((meeting (.answer .ok)).Inv = true ∧ (meeting (.answer .ok)).NamesItsRequest ∧
      (meeting (.answer .ok)).pairing .oneNibbleOut ≠ .intact ∧ (meeting (.answer .ok)).phase = .ready ∧
      resetNext (meeting (.answer .ok)) = false ∧ ∃ t, step (meeting (.answer .ok)) = .next t) :=
  ⟨⟨by decide, rfl, by decide, rfl, _, rfl, rfl, rfl⟩, ⟨by decide, rfl, by decide, rfl, rfl, _, rfl⟩⟩

end Sys2Proof.Machine
end

section
/-! PROOFS. The status port as a number (10_state.md R33). -/

namespace Sys2Proof.Machine

/-- A concatenation as a number, the low part's width giving the place of the high part. -/
theorem toNat_append_eq_add {m n : Nat} (x : BitVec m) (y : BitVec n) : (x ++ y).toNat = 2 ^ n * x.toNat + y.toNat := by
  rw [BitVec.toNat_append, Nat.shiftLeft_eq, Nat.mul_comm, Nat.two_pow_add_eq_or_of_lt y.isLt]

/-- 10_state.md R33: STATUS as one number, each field at the place that the widths of the fields below it give. -/
theorem statusWord_toNat (s : State) :
    (statusWord s).toNat =
      (phaseCode s.phase).toNat + 4 * s.busy.toNat + 8 * s.initStep.toNat + 128 + 256 * s.busErr.toNat +
      512 * s.reqErr.toNat + 1024 * (responseCode s.lastCause).toNat := by
  have hbl : s.bl.toNat = 1 := rfl
  have hreserved : (0#2).toNat = 0 := rfl
  simp only [statusWord, toNat_append_eq_add, BitVec.toNat_ofBool, hbl, hreserved]
  omega

/-- Settles O37: `statusWord_toNat`, with the number of each phase and of each response code. -/
theorem statusRegisterFields : Obligations.StatusRegisterFields := by
  refine ⟨fun s => (statusWord_toNat s).trans ?_, by decide⟩
  congr 2
  · cases s.phase <;> rfl
  · cases s.lastCause <;> rfl

end Sys2Proof.Machine
end

section
/-! PROOFS. Reserved words (30_encoding.md R76): which they are, and what executing one does. -/

namespace Sys2Proof.Machine

/-- 30_encoding.md R72, R76: the form of a SENDBYTE word, read off the word as a number. -/
theorem sendByte_form_iff_toNat (w : Word) :
    (opField w = 0x1#4 ∧ zField w = 0#3) ↔ (w.toNat / 4096 = 1 ∧ w.toNat / 512 % 8 = 0) := by
  simp only [BitVec.toNat_eq, opField_toNat, zField_toNat, BitVec.toNat_ofNat]

/-- 30_encoding.md R76: the reserved words, read off the word as a number. The INIT word is the one word with `OP` = 0x2
that is not reserved. -/
theorem decode_error_iff_toNat (w : Word) :
    (∃ r, decode w = .error r) ↔
      (w.toNat / 4096 ≠ 1 ∧ w.toNat / 4096 ≠ 2) ∨
      (w.toNat / 4096 = 1 ∧ w.toNat / 512 % 8 ≠ 0) ∨
      (w.toNat / 4096 = 2 ∧ w.toNat ≠ 0x2000) := by
  have hinit : w ≠ 0x2000#16 ↔ w.toNat ≠ 0x2000 := BitVec.toNat_ne
  rw [decode_error_iff, sendByte_form_iff_toNat, hinit]
  omega

/-- 30_encoding.md R74, 60_exceptions.md R174: `Execute` of a reserved word is its response, whatever the state. -/
theorem execute_of_decode_error {w : Word} {r : Reserved} (h : decode w = .error r) (s : State) :
    execute w s = .next (respond .illegalRequest s) := by
  simp only [execute, h]

/-- Settles O3: the reserved words are those neither form fits (`decode_error_iff_toNat`), and executing one is
`respond .illegalRequest`. -/
theorem reservedWordsAreIllegal : Obligations.ReservedWordsAreIllegal := by
  refine fun w => ⟨decode_error_iff_toNat w, fun s ⟨_, hr⟩ => ?_⟩
  exact ⟨respond .illegalRequest s, execute_of_decode_error hr s, respond_lastCause .., rfl, respond_phase ..,
    respond_pending .., respond_log ..⟩

end Sys2Proof.Machine
end

section
/-! PROOFS. The words the assembler makes of its statements (30_encoding.md R80 to R83). -/

namespace Sys2Proof.Machine

/-- 30_encoding.md R80: the words of SENDBYTE, its operands in range. -/
theorem sendByteWords_of_le {rs n : Nat} (hrs : rs ≤ 1) (hn : n ≤ 255) :
    sendByteWords rs n = .ok [0x1000#16 ||| (BitVec.ofNat 16 rs <<< 8) ||| BitVec.ofNat 16 n] := by
  have hbit : (BitVec.ofBool (decide (rs = 1))).zeroExtend 16 = BitVec.ofNat 16 rs := by
    interval_cases rs <;> rfl
  have hpayload : (BitVec.ofNat 8 n).zeroExtend 16 = BitVec.ofNat 16 n :=
    BitVec.setWidth_ofNat_of_le_of_lt (by decide) (by omega)
  simp only [sendByteWords, rsOk, imm8Ok, hrs, hn, decide_true, if_true, encode, hbit, hpayload]

/-- Settles O52: CMD and DATA are SENDBYTE with `rs` 0 and 1 by definition, so `sendByteWords_of_le` gives the words of
all three. -/
theorem cmdAndDataExpandToSendByte : Obligations.CmdAndDataExpandToSendByte := by
  refine ⟨fun n hn => ⟨rfl, rfl, ?_, ?_, fun rs hrs => sendByteWords_of_le hrs hn⟩, rfl, fun n hn => ?_⟩
  · exact sendByteWords_of_le (rs := 0) (by decide) hn
  · exact sendByteWords_of_le (rs := 1) (by decide) hn
  · simp only [assembleStmt, imm16Ok, hn, decide_true, if_true]

/-- 30_encoding.md R82: the word of DATA of a character. -/
theorem dataWord_eq (c : Byte) : dataWord c = 0x1100#16 ||| BitVec.ofNat 16 c.toNat := by
  rw [BitVec.ofNat_toNat]
  rfl

/-- 30_encoding.md R72, R74: the word of DATA of a character decodes to the SENDBYTE of that character, RS set. -/
theorem decode_dataWord (c : Byte) : decode (dataWord c) = .ok (.sendByte true c) := by
  obtain ⟨hop, hz, hrs, hpayload⟩ := sendByte_word_fields true c
  simp only [dataWord, decode, hop, hz, hrs, hpayload, and_self, if_true]

/-- 30_encoding.md R83: STR is one DATA per character. -/
theorem assembleStmt_str (text : List Byte) : assembleStmt (.str text) = .ok (text.map dataWord) := rfl

/-- Settles O53: STR maps `dataWord` over the text, and each of these words decodes to the DATA of its character. -/
theorem strExpandsToOneDataPerCharacter : Obligations.StrExpandsToOneDataPerCharacter := by
  refine ⟨fun c text ws hws => ?_, rfl, fun text => ⟨text.map dataWord, assembleStmt_str text, List.length_map _, ?_⟩⟩
  · obtain rfl : text.map dataWord = ws := Except.ok.inj hws
    rw [assembleStmt_str, List.map_cons, dataWord_eq]
  · rw [List.map_map]
    exact List.map_congr_left fun c _ => decode_dataWord c

end Sys2Proof.Machine
end

section
/-! PROOFS. The bus byte under a mask and under a shift, and what that says of the four bytes of a frame (40_frame_encoder.md
R100 to R104). -/

namespace Sys2Proof.Machine

@[simp] theorem flagBits_zero (c : Bool) : flagBits c 0#8 = 0#8 := ite_self _

theorem flagBits_and (c : Bool) (m m' : Byte) : flagBits c m &&& m' = flagBits c (m &&& m') := by
  cases c
  · exact BitVec.zero_and
  · rfl

theorem flagBits_ushiftRight (c : Bool) (m : Byte) (k : Nat) : flagBits c m >>> k = flagBits c (m >>> k) := by
  cases c
  · exact BitVec.zero_ushiftRight
  · rfl

/-- What is shifted above bits[3:0] does not meet a mask within them. -/
theorem shiftLeft_and_of_ushiftRight_eq_zero (x : Byte) {m : Byte} (hm : m >>> 4 = 0#8) : x <<< 4 &&& m = 0#8 := by
  have hhigh : BitVec.allOnes 8 <<< 4 &&& m = 0#8 := by
    rw [BitVec.and_comm, ← BitVec.shiftLeft_ushiftRight, hm, BitVec.zero_shiftLeft]
  rw [← BitVec.allOnes_shiftLeft_and_shiftLeft, BitVec.and_comm (BitVec.allOnes 8 <<< 4), BitVec.and_assoc, hhigh,
    BitVec.and_zero]

/-- 40_frame_encoder.md R100: a mask within bits[3:0] sees the three flags of a frame byte and not its nibble. -/
theorem frameByte_and (n : Nibble) (rs bl en : Bool) {m : Byte} (hm : m >>> 4 = 0#8) :
    frameByte n rs bl en &&& m =
      flagBits rs (rsMask &&& m) ||| flagBits bl (blMask &&& m) ||| flagBits en (enMask &&& m) := by
  simp only [frameByte, BitVec.and_or_distrib_right, shiftLeft_and_of_ushiftRight_eq_zero _ hm, flagBits_and,
    BitVec.zero_or]

theorem frameByte_and_rsMask (n : Nibble) (rs bl en : Bool) : frameByte n rs bl en &&& rsMask = flagBits rs rsMask := by
  rw [frameByte_and n rs bl en (by decide)]
  simp [rsMask, blMask, enMask]

theorem frameByte_and_rwMask (n : Nibble) (rs bl en : Bool) : frameByte n rs bl en &&& rwMask = 0#8 := by
  rw [frameByte_and n rs bl en (by decide)]
  simp [rsMask, rwMask, blMask, enMask]

theorem frameByte_and_enMask (n : Nibble) (rs bl en : Bool) : frameByte n rs bl en &&& enMask = flagBits en enMask := by
  rw [frameByte_and n rs bl en (by decide)]
  simp [rsMask, blMask, enMask]

theorem frameByte_and_blMask (n : Nibble) (rs bl en : Bool) : frameByte n rs bl en &&& blMask = flagBits bl blMask := by
  rw [frameByte_and n rs bl en (by decide)]
  simp [rsMask, blMask, enMask]

/-- 40_frame_encoder.md R101: each byte of a frame is a frame byte with the register select of the frame and BL on. -/
theorem exists_frameByte_of_mem {b x : Byte} {rs : Bool} (h : x ∈ frameBytes (frameOf b rs)) :
    ∃ n en, x = frameByte n rs blOn en := by
  simp only [frameBytes, frameOf, List.mem_cons, List.not_mem_nil, or_false] at h
  obtain rfl | rfl | rfl | rfl := h <;> exact ⟨_, _, rfl⟩

/-- Settles O7: the four masks applied to a frame byte, RS, BL and RW for any byte of the frame, EN byte by byte. -/
theorem frameControlBits : Obligations.FrameControlBits := by
  refine fun b rs => ⟨fun x hx => ?_, ?_, ?_, ?_, ?_⟩
  · obtain ⟨n, en, rfl⟩ := exists_frameByte_of_mem hx
    rw [frameByte_and_rsMask, frameByte_and_blMask, frameByte_and_rwMask]
    cases rs <;> decide
  all_goals
    rw [frameOf, frameByte_and_enMask]
    decide

/-- 40_frame_encoder.md R100: the bits above bits[3:0] are the nibble. -/
theorem frameByte_ushiftRight (n : Nibble) (rs bl en : Bool) : frameByte n rs bl en >>> 4 = n.zeroExtend 8 := by
  have hnibble : n.zeroExtend 8 <<< 4 >>> 4 = n.zeroExtend 8 := by
    apply BitVec.eq_of_toNat_eq
    rw [BitVec.toNat_ushiftRight, BitVec.toNat_shiftLeft, BitVec.toNat_setWidth_of_le (by decide), Nat.shiftLeft_eq,
      Nat.shiftRight_eq_div_pow]
    omega
  simp only [frameByte, BitVec.ushiftRight_or_distrib, hnibble, flagBits_ushiftRight]
  simp [rsMask, blMask, enMask]

theorem frameByte_toNat_div (n : Nibble) (rs bl en : Bool) : (frameByte n rs bl en).toNat / 16 = n.toNat := by
  have h := congrArg BitVec.toNat (frameByte_ushiftRight n rs bl en)
  rwa [BitVec.toNat_ushiftRight, Nat.shiftRight_eq_div_pow, BitVec.toNat_setWidth_of_le (by decide)] at h

theorem highNibble_toNat (b : Byte) : (highNibble b).toNat = b.toNat / 16 := by
  rw [highNibble, BitVec.extractLsb'_toNat, Nat.shiftRight_eq_div_pow]
  omega

theorem lowNibble_toNat (b : Byte) : (lowNibble b).toNat = b.toNat % 16 := BitVec.extractLsb'_toNat ..

/-- Settles O8: `frameByte_toNat_div`, with the number of the nibble that each byte carries. -/
theorem frameNibbles : Obligations.FrameNibbles := by
  refine fun b rs => ⟨?_, ?_, ?_, ?_⟩
  · exact (frameByte_toNat_div ..).trans (highNibble_toNat b)
  · exact (frameByte_toNat_div ..).trans (highNibble_toNat b)
  · exact (frameByte_toNat_div ..).trans (lowNibble_toNat b)
  · exact (frameByte_toNat_div ..).trans (lowNibble_toNat b)

theorem highNibble_zeroExtend (b : Byte) : (highNibble b).zeroExtend 8 = b >>> 4 := by
  apply BitVec.eq_of_toNat_eq
  rw [BitVec.toNat_setWidth_of_le (by decide), highNibble_toNat, BitVec.toNat_ushiftRight, Nat.shiftRight_eq_div_pow]

/-- The high nibble in its place is what the mask 0xF0 leaves of the payload. -/
theorem highNibble_shiftLeft (b : Byte) : (highNibble b).zeroExtend 8 <<< 4 = b &&& 0xF0#8 := by
  rw [highNibble_zeroExtend]
  exact BitVec.shiftLeft_ushiftRight

/-- The low nibble in its place is the shifted payload, of which the mask 0xF0 takes nothing away. -/
theorem lowNibble_shiftLeft (b : Byte) : (lowNibble b).zeroExtend 8 <<< 4 = (b <<< 4) &&& 0xF0#8 := by
  have hmask : (b <<< 4) &&& 0xF0#8 = b <<< 4 :=
    (BitVec.and_comm ..).trans (BitVec.allOnes_shiftLeft_and_shiftLeft (n := 4))
  rw [hmask]
  apply BitVec.eq_of_toNat_eq
  rw [BitVec.toNat_shiftLeft, BitVec.toNat_setWidth_of_le (by decide), lowNibble_toNat, BitVec.toNat_shiftLeft,
    Nat.shiftLeft_eq, Nat.shiftLeft_eq]
  omega

/-- 40_frame_encoder.md R101: a frame byte with BL on is its nibble in place, the control bits `c`, and EN. -/
theorem frameByte_blOn (n : Nibble) (rs en : Bool) :
    frameByte n rs blOn en =
      n.zeroExtend 8 <<< 4 ||| (0x08#8 ||| flagBits rs 0x01#8) ||| flagBits en 0x04#8 := by
  rw [BitVec.or_comm 0x08#8, ← BitVec.or_assoc]
  rfl

/-- Settles O9: the first form is the definition of a frame; in the second the control bits of each byte are gathered
(`frameByte_blOn`) and its nibble is written as a masked payload. -/
theorem frameClosedForm : Obligations.FrameClosedForm := by
  refine fun b rs => ⟨rfl, ?_⟩
  simp only [frameBytes, frameOf, frameByte_blOn, highNibble_shiftLeft, lowNibble_shiftLeft, flagBits, if_true,
    Bool.false_eq_true, if_false, BitVec.or_zero]

end Sys2Proof.Machine
end

section
/-! PROOFS. The refused requests (60_exceptions.md R174 to R177): the move that answers code 2, 3 or 4, and what it leaves
unchanged. -/

namespace Sys2Proof.Machine

/-- 60_exceptions.md R170: a response of code 2, 3 or 4 as one update of the state. -/
theorem respond_of_refusesRequest {c : Response} (h : refusesRequest c = true) (s : State) :
    respond c s =
      { s with
        lastCause := c
        reqErr := true
        busy := false
        pending := .none
        log := s.log ++ [.response c] } := by
  simp only [respond, logged, h, Bool.or_true]

/-- 60_exceptions.md R175: a SENDBYTE at its start in UNINIT is its response. -/
theorem exec_sendByte_of_uninit {s : State} (hphase : s.phase = .uninit) (hpending : s.pending = .none) (rs : Bool)
    (b : Byte) : exec (.sendByte rs b) s = .next (respond .notReady s) := by
  simp only [exec_sendByte, execSendByte, hpending, hphase, if_true]

/-- 60_exceptions.md R176: an INIT at its start in READY is its response. -/
theorem exec_init_of_ready {s : State} (hphase : s.phase = .ready) (hpending : s.pending = .none) :
    exec .init s = .next (respond .alreadyInitialized s) := by
  simp only [exec_init, execInit, hpending, hphase, if_true]

/-- Settles O16: `exec_sendByte_of_uninit`, the response written out. -/
theorem sendByteBeforeInitIsNotReady : Obligations.SendByteBeforeInitIsNotReady := by
  intro rs b s hphase hpending
  rw [exec_sendByte_of_uninit hphase hpending, respond_of_refusesRequest rfl]

/-- Settles O19: `exec_init_of_ready`, the response written out. -/
theorem initInReadyIsAlreadyInitialized : Obligations.InitInReadyIsAlreadyInitialized := by
  intro s hphase hpending
  rw [exec_init_of_ready hphase hpending, respond_of_refusesRequest rfl]

/-- 30_encoding.md R74: `Execute` of a legal word runs its request. -/
theorem execute_of_decode_ok {w : Word} {i : Instr} (h : decode w = .ok i) (s : State) : execute w s = exec i s := by
  simp only [execute, h]

/-- On its turn a request in progress that waits for no answer makes its next move. -/
theorem step_eq_execute {s : State} (hturn : blockTurn s = true) (hbusy : s.busy = true)
    (hpending : awaiting s.pending = false) : step s = execute s.cur (passMoment s) := by
  simp only [step, advance, ownMove, hturn, passMoment_busy, hbusy, passMoment_pending, hpending, passMoment_cur,
    if_true, Bool.false_eq_true, if_false]

/-- Settles O27: the step executes the reserved word (`step_eq_execute`), which is its response written out. -/
theorem reservedWordIsAnsweredIllegal : Obligations.ReservedWordIsAnsweredIllegal := by
  intro s why hturn hbusy hpending hword
  have hwaiting : awaiting s.pending = false := congrArg awaiting hpending
  rw [step_eq_execute hturn hbusy hwaiting, execute_of_decode_error hword, respond_of_refusesRequest rfl]
  simp only [passMoment, hpending]

/-- 60_exceptions.md R174 to R176: the code that a refused word is answered with, by what the word is. -/
def refusalCode (w : Word) : Response :=
  match decode w with
  | .error _ => .illegalRequest
  | .ok (.sendByte _ _) => .notReady
  | .ok .init => .alreadyInitialized

theorem refusesRequest_refusalCode (w : Word) : refusesRequest (refusalCode w) = true := by
  unfold refusalCode
  split <;> rfl

/-- 60_exceptions.md R177: for each of the three causes, `Execute` at its start is the response with the code of the
cause. -/
theorem execute_of_refused {w : Word} {s : State} (hpending : s.pending = .none)
    (hcause : (∃ why, decode w = .error why) ∨ (s.phase = .uninit ∧ ∃ rs b, decode w = .ok (.sendByte rs b)) ∨
      (s.phase = .ready ∧ decode w = .ok .init)) :
    execute w s = .next (respond (refusalCode w) s) := by
  rcases hcause with ⟨why, hword⟩ | ⟨hphase, rs, b, hword⟩ | ⟨hphase, hword⟩
  · have hcode : refusalCode w = .illegalRequest := by simp only [refusalCode, hword]
    rw [execute_of_decode_error hword, hcode]
  · have hcode : refusalCode w = .notReady := by simp only [refusalCode, hword]
    rw [execute_of_decode_ok hword, exec_sendByte_of_uninit hphase hpending, hcode]
  · have hcode : refusalCode w = .alreadyInitialized := by simp only [refusalCode, hword]
    rw [execute_of_decode_ok hword, exec_init_of_ready hphase hpending, hcode]

/-- The calls of a log and of what follows it, in order. -/
theorem issuedCalls_append (l l' : List Event) : issuedCalls (l ++ l') = issuedCalls l ++ issuedCalls l' := by
  induction l with
  | nil => rfl
  | cons e l ih => cases e <;> simp only [List.cons_append, issuedCalls, ih]

/-- 60_exceptions.md R170: a response issues no call. -/
theorem issuedCalls_respond (c : Response) (s : State) : issuedCalls (respond c s).log = issuedCalls s.log := by
  rw [respond_log, issuedCalls_append]
  exact List.append_nil _

/-- Settles O28: the step executes the refused word, which is its response (`execute_of_refused`); of the response, only
that it sets `req_err` and issues no call is more than the rule of one field. -/
theorem refusedRequestsChangeOnlyTheResponse : Obligations.RefusedRequestsChangeOnlyTheResponse := by
  intro s hturn hbusy hpending hcause
  have hwaiting : awaiting s.pending = false := congrArg awaiting hpending
  have hstep : step s = .next (respond (refusalCode s.cur) (passMoment s)) :=
    (step_eq_execute hturn hbusy hwaiting).trans (execute_of_refused hpending hcause)
  have hreqErr : (respond (refusalCode s.cur) (passMoment s)).reqErr = true := by
    rw [respond_reqErr, refusesRequest_refusalCode, Bool.or_true]
  exact ⟨_, hstep, rfl, hreqErr, rfl, rfl, rfl, rfl, rfl, rfl, rfl, rfl, rfl, rfl, rfl, rfl, rfl,
    issuedCalls_respond _ (passMoment s)⟩

end Sys2Proof.Machine
end

section
/-! PROOFS. The record of a bus error (60_exceptions.md R173). -/

namespace Sys2Proof.Machine

/-- 60_exceptions.md R173: a full counter stays full. -/
theorem saturatingIncrement_max : saturatingIncrement 0xFFFF#16 = 0xFFFF#16 := by decide

/-- Settles O31: `saturatingIncrement_toNat` and `saturatingIncrement_max`; with its two fields put back, the state is
`s` by definition. -/
theorem busErrorRecordSaturates : Obligations.BusErrorRecordSaturates := by
  refine fun s => ⟨recordBusError_busErr s, saturatingIncrement_toNat s.errCount, fun hfull => ?_, rfl⟩
  rw [recordBusError_errCount, hfull, saturatingIncrement_max]

end Sys2Proof.Machine
end

section
/-! PROOFS. The step that takes a reset (70_reset_and_hazards.md R210), and what the status port reads after it. -/

namespace Sys2Proof.Machine

/-- 70_reset_and_hazards.md R210, 60_exceptions.md R178(d): with a reset next, the step takes it, in every state. -/
theorem step_eq_takeReset {s : State} {k : Fin 5} {rest : List Input} (hagenda : s.agenda = .reset k :: rest) :
    step s = .next (takeReset k { s with agenda := rest }) := by
  have hturn : blockTurn s = false := by simp only [blockTurn, hagenda]
  have harrive : arrive s = takeReset k { s with agenda := rest } := by simp only [arrive, hagenda, takeInput]
  simp only [step, advance, hturn, Bool.false_eq_true, if_false, harrive]

/-- 10_state.md R33: STATUS shows no field that a reset leaves unspecified or to the other agents. -/
theorem statusWord_takeReset (k : Fin 5) (s : State) : statusWord (takeReset k s) = 0x0080#16 := by
  apply BitVec.eq_of_toNat_eq
  simp only [statusWord_toNat, takeReset_phase, takeReset_busy, takeReset_initStep, takeReset_busErr, takeReset_reqErr,
    takeReset_lastCause]
  decide

/-- Settles O33: the step is `takeReset` (`step_eq_takeReset`), which sets each element to its reset value; the port reads
STATUS (`statusWord_takeReset`), the counter, and the constant bus address. -/
theorem resetRestoresTheBlock : Obligations.ResetRestoresTheBlock := by
  intro s k rest hagenda
  exact ⟨_, step_eq_takeReset hagenda, takeReset_phase .., takeReset_initStep .., takeReset_busy .., takeReset_anyFail ..,
    takeReset_errCount .., takeReset_busErr .., takeReset_reqErr .., takeReset_lastCause .., takeReset_pending ..,
    statusWord_takeReset .., takeReset_errCount .., rfl⟩

end Sys2Proof.Machine
end

section
/-! PROOFS. The round trip of the encoder and the decoder (30_encoding.md R72 to R76). -/

namespace Sys2Proof.Machine

/-- 30_encoding.md R74: a SENDBYTE is read off the four fields of its word, and the INIT word is one word. -/
theorem decode_encode (i : Instr) : decode (encode i) = .ok i := by
  cases i with
  | sendByte rs payload =>
    obtain ⟨hop, hz, hrs, hpayload⟩ := sendByte_word_fields rs payload
    simp only [decode, hop, hz, hrs, hpayload, and_self, if_true]
  | init => rfl

/-- Settles O1: `decode_encode`; every request is well formed. -/
theorem decodeOfEncodeIsTheRequest : Obligations.DecodeOfEncodeIsTheRequest := fun i _ => decode_encode i

theorem rsField_toNat (w : Word) : (rsField w).toNat = w.toNat / 256 % 2 := by
  rw [rsField, BitVec.getLsbD, Nat.testBit_eq_decide_div_mod_eq]
  rcases Nat.mod_two_eq_zero_or_one (w.toNat / 2 ^ 8) with h | h <;> simp_all

theorem payloadField_toNat (w : Word) : (payloadField w).toNat = w.toNat % 256 := BitVec.extractLsb'_toNat ..

/-- 30_encoding.md R70, R72: the four fields leave no bit of a word out. -/
theorem word_eq_of_fields {v w : Word} (hop : opField v = opField w) (hz : zField v = zField w)
    (hrs : rsField v = rsField w) (hpayload : payloadField v = payloadField w) : v = w := by
  apply BitVec.eq_of_toNat_eq
  replace hop := congrArg BitVec.toNat hop
  replace hz := congrArg BitVec.toNat hz
  replace hrs := congrArg Bool.toNat hrs
  replace hpayload := congrArg BitVec.toNat hpayload
  rw [opField_toNat, opField_toNat] at hop
  rw [zField_toNat, zField_toNat] at hz
  rw [rsField_toNat, rsField_toNat] at hrs
  rw [payloadField_toNat, payloadField_toNat] at hpayload
  omega

/-- 30_encoding.md R72 to R74: a word that decodes and the word of what it decodes to have the same fields. -/
theorem encode_of_decode {w : Word} {i : Instr} (h : decode w = .ok i) : encode i = w := by
  obtain ⟨hop, hz, rfl⟩ | ⟨rfl, rfl⟩ := decode_ok_cases h
  · obtain ⟨hop', hz', hrs', hpayload'⟩ := sendByte_word_fields (rsField w) (payloadField w)
    exact word_eq_of_fields (hop'.trans hop.symm) (hz'.trans hz.symm) hrs' hpayload'
  · rfl

/-- Settles O2: `encode_of_decode`. -/
theorem encodeOfDecodeIsTheWord : Obligations.EncodeOfDecodeIsTheWord := fun _ _ => encode_of_decode

/-- Settles O4, word by word. -/
theorem listedWordsDecodeAsListed : Obligations.ListedWordsDecodeAsListed := by
  refine ⟨?_, ?_, ?_, ?_, ?_, ?_, ?_⟩ <;> rfl

end Sys2Proof.Machine
end

section
/-! PROOFS. The masks, the bits of a bus byte, the inverse of a frame, and its first bytes as a display controller sees
them (00_scope.md R6; 40_frame_encoder.md R100 to R110; 70_reset_and_hazards.md R220). -/

namespace Sys2Proof.Machine

/-- Settles O5: RS, RW, EN and BL are 1 shifted by 0 to 3. -/
theorem masksAreDistinctSingleBits : Obligations.MasksAreDistinctSingleBits := by
  refine ⟨?_, by decide⟩
  simp only [List.forall_mem_cons, List.not_mem_nil, false_imp_iff, implies_true, and_true]
  exact ⟨⟨0, rfl⟩, ⟨1, rfl⟩, ⟨2, rfl⟩, ⟨3, rfl⟩⟩

theorem flagBits_getLsbD (c : Bool) (m : Byte) (i : Nat) : (flagBits c m).getLsbD i = (c && m.getLsbD i) := by
  cases c
  · exact BitVec.getLsbD_zero
  · rfl

/-- 40_frame_encoder.md R100: below the nibble, a bit of a frame byte is that of the three flags. -/
theorem frameByte_getLsbD (n : Nibble) (rs bl en : Bool) {i : Nat} (hi : i < 4) :
    (frameByte n rs bl en).getLsbD i =
      ((rs && rsMask.getLsbD i) || (bl && blMask.getLsbD i) || (en && enMask.getLsbD i)) := by
  simp only [frameByte, BitVec.getLsbD_or, BitVec.getLsbD_shiftLeft, flagBits_getLsbD, hi, decide_true, Bool.not_true,
    Bool.and_false, Bool.false_and, Bool.false_or]

/-- Settles O6: the nibble by `frameByte_toNat_div`, each control bit by `frameByte_getLsbD`. -/
theorem busByteLayout : Obligations.BusByteLayout := by
  intro n rs bl en
  refine ⟨frameByte_toNat_div n rs bl en, ?_, ?_, ?_, ?_⟩ <;> rw [frameByte_getLsbD _ _ _ _ (by decide)]
  · simp [rsMask, blMask, enMask]
  · simp [rsMask, blMask, enMask]
  · simp [rsMask, blMask, enMask]
  · simp [rsMask, blMask, enMask]

/-- The mask 0xF0 leaves of a frame byte its nibble. -/
theorem frameByte_and_highMask (n : Nibble) (rs bl en : Bool) :
    frameByte n rs bl en &&& 0xF0#8 = n.zeroExtend 8 <<< 4 := by
  rw [← frameByte_ushiftRight n rs bl en]
  exact (BitVec.shiftLeft_ushiftRight (n := 4)).symm

theorem lowNibble_zeroExtend (b : Byte) : (lowNibble b).zeroExtend 8 = b &&& 0x0F#8 := by
  apply BitVec.eq_of_toNat_eq
  rw [BitVec.toNat_setWidth_of_le (by decide), lowNibble_toNat, BitVec.toNat_and]
  exact (Nat.and_two_pow_sub_one_eq_mod b.toNat 4).symm

/-- 40_frame_encoder.md R109: byte 0 gives back the high nibble and byte 2 the low one. -/
theorem framePayload_frameOf (b : Byte) (rs : Bool) : framePayload (frameOf b rs) = b := by
  have hmask : 0xF0#8 ||| 0x0F#8 = BitVec.allOnes 8 := rfl
  simp only [framePayload, frameOf, frameByte_and_highMask, frameByte_ushiftRight, highNibble_shiftLeft,
    lowNibble_zeroExtend, ← BitVec.and_or_distrib_left, hmask, BitVec.and_allOnes]

/-- 40_frame_encoder.md R109: byte 0 gives back the register select. -/
theorem frameRs_frameOf (b : Byte) (rs : Bool) : frameRs (frameOf b rs) = rs := by
  rw [frameRs, frameOf, frameByte_and_rsMask]
  cases rs <;> rfl

/-- Settles O10: `framePayload_frameOf` and `frameRs_frameOf`; a map with an inverse is injective. -/
theorem frameHasAnInverse : Obligations.FrameHasAnInverse := by
  refine ⟨fun b rs => ⟨framePayload_frameOf b rs, frameRs_frameOf b rs⟩, fun b b' rs rs' h => ⟨?_, ?_⟩⟩
  · rw [← framePayload_frameOf b rs, h, framePayload_frameOf]
  · rw [← frameRs_frameOf b rs, h, frameRs_frameOf]

/-- Settles O11, frame by frame. -/
theorem cornerCaseFrames : Obligations.CornerCaseFrames := by
  refine ⟨?_, ?_, ?_, ?_, ?_, ?_, ?_, ?_⟩ <;> rfl

/-- 40_frame_encoder.md R102: EN of a frame byte is the flag it was made with. -/
@[simp] theorem enableHigh_frameByte (n : Nibble) (rs bl en : Bool) : enableHigh (frameByte n rs bl en) = en := by
  rw [enableHigh, frameByte_and_enMask]
  cases en <;> rfl

/-- 70_reset_and_hazards.md R220: the first `k` bytes of a frame, whose enable bits go high, low, high, low. -/
theorem pairingAfter_take_frame (b : Byte) (rs : Bool) (k : Fin 5) :
    pairingAfter ((frameBytes (frameOf b rs)).take k.val) =
      if k = 0 ∨ k = 4 then .intact else if k = 2 then .oneNibbleOut else .controllerDependent := by
  fin_cases k <;> simp [pairingAfter, strobeCut, strobes, frameBytes, frameOf]

/-- Settles O12: `pairingAfter_take_frame`. -/
theorem partialFramePairing : Obligations.PartialFramePairing := pairingAfter_take_frame

end Sys2Proof.Machine
end

section
/-! PROOFS. The status port, the state after reset, and the assembler's refusals (10_state.md R32 to R36, section 6;
30_encoding.md R80, R84). -/

namespace Sys2Proof.Machine

/-- 10_state.md R35: CONFIG is the 7-bit bus address. -/
theorem configWord_toNat (s : State) : (configWord s).toNat = Config.busAddr.toNat :=
  BitVec.toNat_setWidth_of_le (by decide)

/-- Settles O38: each index selects its register; the bus address has seven bits. -/
theorem otherStatusRegisters : Obligations.OtherStatusRegisters := by
  refine fun s => ⟨rfl, configWord_toNat s, ?_, rfl⟩
  rw [show statusPort s 2#2 = configWord s from rfl, configWord_toNat]
  exact Config.busAddr.isLt

/-- Settles O39: STATUS is made of the first six fields, ERR_COUNT is the seventh, and CONFIG and the reserved index are
constants. -/
theorem hiddenStateIsNotReadable : Obligations.HiddenStateIsNotReadable := by
  intro s t index hphase hinitStep hbusy hbusErr hreqErr hlastCause herrCount
  have hstatus : statusWord t = statusWord s := by
    simp only [statusWord, State.bl, hphase, hinitStep, hbusy, hbusErr, hreqErr, hlastCause]
  simp only [statusPort, hstatus, herrCount, configWord, State.busAddr]

/-- Settles O36: the fields of `State.reset`, the port's readings of them, and the step of an idle block with no word at
its port and no input. -/
theorem stateAfterReset : Obligations.StateAfterReset :=
  ⟨rfl, rfl, rfl, rfl, rfl, rfl, rfl, rfl, rfl, rfl, rfl, rfl⟩

/-- Settles O40: the invariant evaluates to true, and the log is empty. -/
theorem resetIsLegal : Obligations.ResetIsLegal :=
  ⟨by decide, rfl, fun _ he => nomatch he⟩

/-- 30_encoding.md R84: an `imm8` over 255 is refused, the register select being in range. -/
theorem sendByteWords_of_imm_gt {rs n : Nat} (hrs : rs ≤ 1) (hn : 255 < n) :
    sendByteWords rs n = .error (.immRange n) := by
  simp only [sendByteWords, rsOk, imm8Ok, hrs, Nat.not_le_of_gt hn, decide_true, decide_false, if_true,
    Bool.false_eq_true, if_false]

/-- Settles O54: CMD and DATA are SENDBYTE with `rs` 0 and 1, so `sendByteWords_of_imm_gt` refuses all three; an `rs` over
1 and an `imm16` over 65535 fail their own checks. -/
theorem immediatesOutOfRangeAreRefused : Obligations.ImmediatesOutOfRangeAreRefused := by
  refine ⟨fun n hn => ⟨?_, ?_, fun rs hrs => sendByteWords_of_imm_gt hrs hn⟩, fun rs n hrs => ?_, fun n hn => ?_⟩
  · exact sendByteWords_of_imm_gt (rs := 0) (by decide) hn
  · exact sendByteWords_of_imm_gt (rs := 1) (by decide) hn
  · simp only [assembleStmt, sendByteWords, rsOk, Nat.not_le_of_gt hrs, decide_false, Bool.false_eq_true, if_false]
  · simp only [assembleStmt, imm16Ok, Nat.not_le_of_gt hn, decide_false, Bool.false_eq_true, if_false]

/-- Settles O55, line by line. -/
theorem listedTextAssemblesAsListed : Obligations.ListedTextAssemblesAsListed := by
  refine ⟨?_, ?_, ?_, ?_, ?_⟩ <;> decide

end Sys2Proof.Machine
end

section
/-! PROOFS. The moves of a SENDBYTE (40_frame_encoder.md R105) and what none of them touches. -/

namespace Sys2Proof.Machine

/-- 40_frame_encoder.md R105: a SENDBYTE at its start in READY sends its frame. -/
theorem exec_sendByte_of_ready {s : State} (hphase : s.phase = .ready) (hpending : s.pending = .none) (rs : Bool)
    (b : Byte) : exec (.sendByte rs b) s = .next (sendFrame b rs s) := by
  simp only [exec_sendByte, execSendByte, hpending, hphase, reduceCtorEq, if_false]

/-- Settles O13: `exec_sendByte_of_ready`, the frame and its call written out. -/
theorem sendByteIssuesItsFrame : Obligations.SendByteIssuesItsFrame :=
  fun rs b _ hphase hpending => exec_sendByte_of_ready hphase hpending rs b

/-- 40_frame_encoder.md R105: a SENDBYTE whose transaction is answered responds. -/
theorem exec_sendByte_of_busDone {s : State} {r : BusResult} (hpending : s.pending = .busDone r) (rs : Bool) (b : Byte) :
    exec (.sendByte rs b) s = .next (respond (transactionResponse r) s) := by
  simp only [exec_sendByte, execSendByte, hpending]

/-- 60_exceptions.md R171: code 1 if the answer is Fail, else code 0. -/
theorem transactionResponse_eq (r : BusResult) :
    transactionResponse r = if r = .ok then .ok else .busTransportError := by
  cases r <;> rfl

/-- 60_exceptions.md R170: codes 0 and 1 leave `req_err`. -/
theorem refusesRequest_transactionResponse (r : BusResult) : refusesRequest (transactionResponse r) = false := by
  cases r <;> rfl

/-- Settles O14: `exec_sendByte_of_busDone`, the response written out; neither of the two codes sets `req_err`. -/
theorem sendByteRespondsToItsAnswer : Obligations.SendByteRespondsToItsAnswer := by
  intro rs b r s hpending
  rw [exec_sendByte_of_busDone hpending, ← transactionResponse_eq]
  simp only [respond, logged, refusesRequest_transactionResponse, Bool.or_false]

theorem awaiting_iff (p : Pending) : awaiting p = true ↔ p = .busTx ∨ ∃ n, p = .delay n := by
  cases p <;> simp [awaiting]

/-- Settles O17: a refusal writes `req_err` in UNINIT alone, a transaction writes `frame_buf` elsewhere alone, the
response to an answer writes neither, and at a call not answered nothing moves. -/
theorem sendByteFrame : Obligations.SendByteFrame := by
  intro rs b s t h
  rw [exec_sendByte] at h
  rw [← awaiting_iff]
  rcases execSendByte_cases h with ⟨hpending, hphase, rfl⟩ | ⟨hpending, hphase, rfl⟩ | ⟨r, hpending, rfl⟩ | ⟨_, rfl⟩
  · simp [hpending, hphase, awaiting, Event.isDelay]
  · simp [hpending, hphase, awaiting, Event.isDelay]
  · simp [hpending, awaiting, Event.isDelay, refusesRequest_transactionResponse]
  · simp

end Sys2Proof.Machine
end

section
/-! PROOFS. The moves of an INIT (41_init_sequencer.md R132 to R145), one equation for each place of the sequence. -/

namespace Sys2Proof.Machine

variable {s t : State} {r : BusResult} {k : BitVec 4} {b : Byte} {n : Nat}

/-- 41_init_sequencer.md R132, R133: an INIT that is not refused enters the sequence and issues step 1's wait. -/
theorem exec_init_of_start (hphase : s.phase ≠ .ready) (hpending : s.pending = .none) :
    exec .init s = .next (issueDelay 50 (enterSequence s)) := by
  simp only [exec_init, execInit, hpending, hphase, if_false, startInit_eq]

/-- Settles O18: `exec_init_of_start`, the wait written out. -/
theorem initStartsWithThePowerOnWait : Obligations.InitStartsWithThePowerOnWait :=
  fun _ hphase hpending => exec_init_of_start hphase hpending

theorem exec_init_of_busDone (hpending : s.pending = .busDone r) : exec .init s = afterInitSend r s := by
  simp only [exec_init, execInit, hpending]

theorem exec_init_of_delayDone (hpending : s.pending = .delayDone) : exec .init s = finishInitStep s := by
  simp only [exec_init, execInit, hpending]

/-- 41_init_sequencer.md R144: the step's frame is followed by its wait, if it has one. -/
theorem afterInitSend_of_wait (hstep : initTable s.initStep = some (.send b n)) (hn : n ≠ 0) (r : BusResult) :
    afterInitSend r s = .next (issueDelay n (noteFailure r s)) := by
  simp only [afterInitSend, hstep, hn, if_false]

/-- 41_init_sequencer.md R144: a step whose wait is 0 is over with its frame. -/
theorem afterInitSend_of_no_wait (hstep : initTable s.initStep = some (.send b 0)) (r : BusResult) :
    afterInitSend r s = finishInitStep (noteFailure r s) := by
  simp only [afterInitSend, hstep, if_true]

/-- 41_init_sequencer.md R132: a step before the last is followed by the frame of the next one. -/
theorem finishInitStep_of_next (hlast : s.initStep ≠ 10#4) (hstep : initTable (s.initStep + 1#4) = some (.send b n)) :
    finishInitStep s = .next (sendFrame b false { s with initStep := s.initStep + 1#4 }) := by
  simp only [finishInitStep, hlast, if_false, beginInitStep, hstep]

/-- 41_init_sequencer.md R143: step 10 is followed by the completion. -/
theorem finishInitStep_of_last (hlast : s.initStep = 10#4) : finishInitStep s = .next (completeInit s) := by
  simp only [finishInitStep, hlast, if_true]

theorem isFailure_eq_decide (r : BusResult) : isFailure r = decide (r = .fail) := by cases r <;> rfl

/-- 41_init_sequencer.md R132: `any_fail` as `Send` leaves it. -/
theorem noteFailure_eq (r : BusResult) (s : State) :
    noteFailure r s = { s with anyFail := s.anyFail || decide (r = .fail) } := by
  rw [← isFailure_eq_decide]
  rfl

/-- 41_init_sequencer.md R134 to R137, R140: the steps that send a frame and wait. -/
theorem initTable_of_listed_wait :
    ∀ q ∈ [(2#4, 5), (3#4, 1), (4#4, 1), (5#4, 1), (8#4, 2)], q.2 ≠ 0 ∧ ∃ b, initTable q.1 = some (.send b q.2) := by
  simp only [List.forall_mem_cons, List.not_mem_nil, false_imp_iff, implies_true, and_true]
  exact ⟨⟨by decide, _, rfl⟩, ⟨by decide, _, rfl⟩, ⟨by decide, _, rfl⟩, ⟨by decide, _, rfl⟩, ⟨by decide, _, rfl⟩⟩

/-- Settles O20: each listed step has its wait in the table, which `afterInitSend_of_wait` issues. -/
theorem initWaitsAfterItsFrames : Obligations.InitWaitsAfterItsFrames := by
  rintro s r _ n hlisted hpending rfl
  obtain ⟨hn, b, hstep⟩ := initTable_of_listed_wait _ hlisted
  rw [exec_init_of_busDone hpending, afterInitSend_of_wait hstep hn, noteFailure_eq]
  rfl

/-- 41_init_sequencer.md R134 to R137, R140, R142: the steps that follow a wait, and their frames. -/
theorem initTable_after_listed_wait :
    ∀ q ∈ ([(1#4, ⟨0x3C#8, 0x38#8, 0x0C#8, 0x08#8⟩), (2#4, ⟨0x3C#8, 0x38#8, 0x0C#8, 0x08#8⟩),
      (3#4, ⟨0x3C#8, 0x38#8, 0x0C#8, 0x08#8⟩), (4#4, ⟨0x2C#8, 0x28#8, 0x0C#8, 0x08#8⟩),
      (5#4, ⟨0x2C#8, 0x28#8, 0x8C#8, 0x88#8⟩), (8#4, ⟨0x0C#8, 0x08#8, 0x6C#8, 0x68#8⟩)] : List (BitVec 4 × Frame)),
      q.1 ≠ 10#4 ∧ ∃ b n, initTable (q.1 + 1#4) = some (.send b n) ∧ frameOf b false = q.2 := by
  simp only [List.forall_mem_cons, List.not_mem_nil, false_imp_iff, implies_true, and_true]
  exact ⟨⟨by decide, _, _, rfl, frameOf_functionSet8⟩, ⟨by decide, _, _, rfl, frameOf_functionSet8⟩,
    ⟨by decide, _, _, rfl, frameOf_functionSet8⟩, ⟨by decide, _, _, rfl, frameOf_functionSet4⟩,
    ⟨by decide, _, _, rfl, frameOf_functionSet⟩, ⟨by decide, _, _, rfl, frameOf_entryModeSet⟩⟩

/-- 41_init_sequencer.md R138, R139, R141: the steps that send a frame and do not wait, and the frames that follow. -/
theorem initTable_after_listed_send :
    ∀ q ∈ ([(6#4, ⟨0x0C#8, 0x08#8, 0xCC#8, 0xC8#8⟩), (7#4, ⟨0x0C#8, 0x08#8, 0x1C#8, 0x18#8⟩),
      (9#4, ⟨0x0C#8, 0x08#8, 0x2C#8, 0x28#8⟩)] : List (BitVec 4 × Frame)),
      q.1 ≠ 10#4 ∧ (∃ b, initTable q.1 = some (.send b 0)) ∧
        ∃ b n, initTable (q.1 + 1#4) = some (.send b n) ∧ frameOf b false = q.2 := by
  simp only [List.forall_mem_cons, List.not_mem_nil, false_imp_iff, implies_true, and_true]
  exact ⟨⟨by decide, ⟨_, rfl⟩, _, _, rfl, frameOf_displayControl⟩, ⟨by decide, ⟨_, rfl⟩, _, _, rfl, frameOf_clearDisplay⟩,
    ⟨by decide, ⟨_, rfl⟩, _, _, rfl, frameOf_returnHome⟩⟩

/-- Settles O21: each listed step is over, after its wait or at once after its frame, and `finishInitStep_of_next` sends the
frame of the next one. -/
theorem initSendsTheListedFrames : Obligations.InitSendsTheListedFrames := by
  constructor
  · rintro s _ _ hlisted hpending rfl
    obtain ⟨hlast, b, n, hstep, rfl⟩ := initTable_after_listed_wait _ hlisted
    rw [exec_init_of_delayDone hpending, finishInitStep_of_next hlast hstep]
    rfl
  · rintro s r _ _ hlisted hpending rfl
    obtain ⟨hlast, ⟨b, hsent⟩, b', n, hstep, rfl⟩ := initTable_after_listed_send _ hlisted
    rw [exec_init_of_busDone hpending, afterInitSend_of_no_wait hsent,
      finishInitStep_of_next (s := noteFailure r s) hlast hstep, noteFailure_eq]
    rfl

/-- 60_exceptions.md R170: the response of a completed INIT leaves `req_err`. -/
theorem completeInit_eq (s : State) :
    completeInit s =
      { s with
        initStep := 0#4
        phase := .ready
        lastCause := if s.anyFail then .busTransportError else .ok
        busy := false
        pending := .none
        log := s.log ++ [.response (if s.anyFail then .busTransportError else .ok)] } := by
  have h := completeInit_reqErr s
  simp only [completeInit, respond, logged] at h ⊢
  rw [h]

/-- 41_init_sequencer.md R142, R143: step 10 sends a frame and does not wait. -/
theorem exec_init_of_last (hpending : s.pending = .busDone r) (hlast : s.initStep = 10#4) :
    exec .init s = .next (completeInit (noteFailure r s)) := by
  have hstep : initTable s.initStep = some (.send cmdReturnHome 0) := by rw [hlast]; rfl
  rw [exec_init_of_busDone hpending, afterInitSend_of_no_wait hstep,
    finishInitStep_of_last (s := noteFailure r s) hlast]

/-- Settles O22: `exec_init_of_last`, with `any_fail` and the response written out. -/
theorem initCompletesAfterStepTen : Obligations.InitCompletesAfterStepTen := by
  intro s r hpending hlast
  rw [exec_init_of_last hpending hlast, noteFailure_eq, completeInit_eq]
  simp only [Bool.or_eq_true, decide_eq_true_eq]

end Sys2Proof.Machine
end

section
/-! PROOFS. What an INIT's moves have in common: the three sequencer fields, then one event (41_init_sequencer.md R132, R143,
R147). -/

namespace Sys2Proof.Machine

variable {s t u s' t' : State} {r : BusResult} {k : BitVec 4}

/-- The state with other values in the fields that the sequencer alone writes (41_init_sequencer.md R132). -/
def setSequencer (phase : Phase) (initStep : BitVec 4) (anyFail : Bool) (s : State) : State :=
  { s with phase := phase, initStep := initStep, anyFail := anyFail }

section
variable (phase : Phase) (initStep : BitVec 4) (anyFail : Bool) (s : State)

@[simp] theorem setSequencer_phase : (setSequencer phase initStep anyFail s).phase = phase := rfl
@[simp] theorem setSequencer_initStep : (setSequencer phase initStep anyFail s).initStep = initStep := rfl
@[simp] theorem setSequencer_anyFail : (setSequencer phase initStep anyFail s).anyFail = anyFail := rfl
@[simp] theorem setSequencer_busy : (setSequencer phase initStep anyFail s).busy = s.busy := rfl
@[simp] theorem setSequencer_cur : (setSequencer phase initStep anyFail s).cur = s.cur := rfl
@[simp] theorem setSequencer_frameBuf : (setSequencer phase initStep anyFail s).frameBuf = s.frameBuf := rfl
@[simp] theorem setSequencer_errCount : (setSequencer phase initStep anyFail s).errCount = s.errCount := rfl
@[simp] theorem setSequencer_busErr : (setSequencer phase initStep anyFail s).busErr = s.busErr := rfl
@[simp] theorem setSequencer_reqErr : (setSequencer phase initStep anyFail s).reqErr = s.reqErr := rfl
@[simp] theorem setSequencer_pending : (setSequencer phase initStep anyFail s).pending = s.pending := rfl
@[simp] theorem setSequencer_port : (setSequencer phase initStep anyFail s).port = s.port := rfl
@[simp] theorem setSequencer_agenda : (setSequencer phase initStep anyFail s).agenda = s.agenda := rfl
@[simp] theorem setSequencer_log : (setSequencer phase initStep anyFail s).log = s.log := rfl
@[simp] theorem setSequencer_draws : (setSequencer phase initStep anyFail s).draws = s.draws := rfl

end

/-- A move of the sequence: the sequencer's fields change, and then it waits, sends a command or completes. -/
inductive SequenceMove (s : State) : State → Prop
  | wait (p : Phase) (k : BitVec 4) (a : Bool) {n : Nat} (hn : 0 < n) :
      SequenceMove s (issueDelay n (setSequencer p k a s))
  | send (p : Phase) (k : BitVec 4) (a : Bool) (b : Byte) :
      SequenceMove s (sendFrame b false (setSequencer p k a s))
  | complete (p : Phase) (k : BitVec 4) (a : Bool) {c : Response} (hc : refusesRequest c = false) :
      SequenceMove s (respond c (setSequencer p k a s))

/-- 41_init_sequencer.md R133: the one step that only waits is step 1. -/
theorem initTable_waitOnly {n : Nat} (h : initTable k = some (.waitOnly n)) : k = 1#4 ∧ n = 50 := by
  have hsteps : ∀ k : BitVec 4, ∀ i ∈ initTable k, k = 1#4 ∧ i = .waitOnly 50 ∨ i matches .send _ _ := by decide
  simpa using hsteps k _ h

theorem beginInitStep_move {p : Phase} {j : BitVec 4} {a : Bool}
    (h : beginInitStep k (setSequencer p j a s) = .next t) : SequenceMove s t := by
  rcases beginInitStep_cases h with ⟨n, hk, rfl⟩ | ⟨b, n, _, rfl⟩
  · obtain ⟨_, rfl⟩ := initTable_waitOnly hk
    exact .wait p k a (by decide)
  · exact .send p k a b

theorem finishInitStep_move {p : Phase} {j : BitVec 4} {a : Bool}
    (h : finishInitStep (setSequencer p j a s) = .next t) : SequenceMove s t := by
  rcases finishInitStep_cases h with ⟨_, rfl⟩ | ⟨_, h⟩
  · exact .complete .ready 0#4 a (by cases a <;> rfl)
  · exact beginInitStep_move h

theorem afterInitSend_move (h : afterInitSend r s = .next t) : SequenceMove s t := by
  have hnote : noteFailure r s = setSequencer s.phase s.initStep (s.anyFail || isFailure r) s := rfl
  rcases afterInitSend_cases h with ⟨b, n, _, hn, rfl⟩ | ⟨b, _, h⟩
  · exact .wait s.phase s.initStep (s.anyFail || isFailure r) (Nat.pos_of_ne_zero hn)
  · exact finishInitStep_move (hnote ▸ h)

/-- Every move of an INIT is its refusal in READY, a move of the sequence, or none at a call not answered. -/
theorem execInit_move (h : execInit s = .next t) :
    (s.pending = .none ∧ s.phase = .ready ∧ t = respond .alreadyInitialized s) ∨
    (awaiting s.pending = true ∧ t = s) ∨
    (awaiting s.pending = false ∧ ¬ (s.pending = .none ∧ s.phase = .ready) ∧ SequenceMove s t) := by
  rcases execInit_cases h with h | ⟨hp, hphase, h⟩ | ⟨r, hp, h⟩ | ⟨hp, h⟩ | h
  · exact .inl h
  · exact .inr (.inr ⟨by rw [hp]; rfl, by simp [hphase], beginInitStep_move h⟩)
  · exact .inr (.inr ⟨by rw [hp]; rfl, by simp [hp], afterInitSend_move h⟩)
  · exact .inr (.inr ⟨by rw [hp]; rfl, by simp [hp], finishInitStep_move (p := s.phase) (j := s.initStep) (a := s.anyFail) h⟩)
  · exact .inr (.inl h)

/-- Settles O24: the refusal writes `req_err` at its start in READY alone; a move of the sequence writes the sequencer's
fields, and `frame_buf` only with the frame of a command in flight. -/
theorem initFrame : Obligations.InitFrame := by
  intro s t h
  rw [exec_init] at h
  rw [← awaiting_iff]
  rcases execInit_move h with ⟨hp, hphase, rfl⟩ | ⟨_, rfl⟩ | ⟨hp, _, hmove⟩
  · simp [hp, hphase, awaiting]
  · simp
  · cases hmove with
    | wait p k a hn => simp [hp]
    | send p k a b => simpa [hp] using .inr ⟨b, rfl⟩
    | complete p k a hc => simp [hp, hc]

/-- Two blocks stand at the same step with the same kind of operation in flight, of the same frame if it is a transaction. -/
def SameCall (s t : State) : Prop :=
  t.initStep = s.initStep ∧ t.pending.blind = s.pending.blind ∧ (s.pending = .busTx → t.frameBuf = s.frameBuf)

theorem beginInitStep_sameCall (hs : beginInitStep k s = .next s') (ht : beginInitStep k t = .next t') :
    SameCall s' t' := by
  rcases beginInitStep_cases hs with ⟨n, hk, rfl⟩ | ⟨b, n, hk, rfl⟩ <;>
    rcases beginInitStep_cases ht with ⟨m, hk', rfl⟩ | ⟨c, m, hk', rfl⟩ <;>
    simp_all [SameCall]

theorem finishInitStep_sameCall (hk : s.initStep = t.initStep) (hs : finishInitStep s = .next s')
    (ht : finishInitStep t = .next t') : SameCall s' t' := by
  rcases finishInitStep_cases hs with ⟨hlast, rfl⟩ | ⟨hlast, hs⟩
  · rw [finishInitStep_of_last (hk ▸ hlast)] at ht
    cases ht
    simp [SameCall]
  · rcases finishInitStep_cases ht with ⟨hlast', _⟩ | ⟨_, ht⟩
    · exact absurd (hk.trans hlast') hlast
    · exact beginInitStep_sameCall hs (hk ▸ ht)

theorem afterInitSend_sameCall {q : BusResult} (hk : s.initStep = t.initStep) (hs : afterInitSend r s = .next s')
    (ht : afterInitSend q t = .next t') : SameCall s' t' := by
  rcases afterInitSend_cases hs with ⟨b, n, hstep, hn, rfl⟩ | ⟨b, hstep, hs⟩
  · rw [afterInitSend_of_wait (hk ▸ hstep) hn] at ht
    cases ht
    simp [SameCall, hk]
  · rw [afterInitSend_of_no_wait (hk ▸ hstep)] at ht
    exact finishInitStep_sameCall (s := noteFailure r s) (t := noteFailure q t) hk hs ht

/-- An operation seen without its answer is of the kind it was. -/
theorem blind_eq_busDone {p : Pending} (h : p.blind = .busDone .ok) : ∃ r, p = .busDone r := by
  cases p <;> simp_all [Pending.blind]

theorem blind_eq_delayDone {p : Pending} (h : p.blind = .delayDone) : p = .delayDone := by
  cases p <;> simp_all [Pending.blind]

@[simp] theorem awaiting_blind (p : Pending) : awaiting p.blind = awaiting p := by cases p <;> rfl

/-- 60_exceptions.md R190: an INIT whose call is not answered stays. -/
theorem exec_init_of_awaiting (h : awaiting s.pending = true) : exec .init s = .next s := by
  obtain hp | ⟨n, hp⟩ := (awaiting_iff _).1 h <;> simp only [exec_init, execInit, hp]

/-- Settles O50: an answered transaction or delay is followed by the same call in both blocks (`afterInitSend_sameCall`,
`finishInitStep_sameCall`); where one call is not answered neither is the other, and both stay. -/
theorem initStepsDependOnTheStepAlone : Obligations.InitStepsDependOnTheStepAlone := by
  intro s t s' t' hk hp hstarted hs ht
  have of_sameCall : SameCall s' t' → t'.initStep = s'.initStep ∧ t'.pending.blind = s'.pending.blind ∧
      (s'.pending = .busTx → s.pending ≠ .busTx → t'.frameBuf = s'.frameBuf) :=
    fun ⟨hstep, hpending, hframe⟩ => ⟨hstep, hpending, fun hbus _ => hframe hbus⟩
  rw [exec_init] at hs
  rcases execInit_cases hs with ⟨hnone, _⟩ | ⟨hnone, _⟩ | ⟨r, hdone, hs⟩ | ⟨hdone, hs⟩ | ⟨hwait, rfl⟩
  · exact absurd hnone hstarted
  · exact absurd hnone hstarted
  · obtain ⟨q, hdone'⟩ := blind_eq_busDone (p := t.pending) (by rw [← hp, hdone]; rfl)
    rw [exec_init_of_busDone hdone'] at ht
    exact of_sameCall (afterInitSend_sameCall hk hs ht)
  · have hdone' : t.pending = .delayDone := blind_eq_delayDone (by rw [← hp, hdone]; rfl)
    rw [exec_init_of_delayDone hdone'] at ht
    exact of_sameCall (finishInitStep_sameCall hk hs ht)
  · have hwait' : awaiting t.pending = true := by rw [← awaiting_blind, ← hp, awaiting_blind, hwait]
    rw [exec_init_of_awaiting hwait'] at ht
    cases ht
    exact ⟨hk.symm, hp.symm, fun hbus hne => absurd hbus hne⟩

end Sys2Proof.Machine
end

section
/-! PROOFS. What a step does where the agenda or the port says what comes next: an acceptance, a move of the request in
progress, an agent's input, a reset (60_exceptions.md R184 to R190; 70_reset_and_hazards.md R210, R212; log 2). -/

namespace Sys2Proof.Machine

variable {s t : State} {w : Word} {ws : List Word} {rest : List Input}

/-- Where an external agent acts next, the step is its input taking effect. -/
theorem step_eq_takeInput {i : Input} (hagenda : s.agenda = i :: rest) (hi : i ≠ .quiet) :
    step s = .next (takeInput i { s with agenda := rest }) := by
  have hturn : blockTurn s = false := by
    cases i with
    | quiet => exact absurd rfl hi
    | _ => simp only [blockTurn, hagenda]
  simp only [step, advance, hturn, Bool.false_eq_true, if_false, arrive, hagenda]

theorem blockTurn_of_quiet (hagenda : s.agenda = .quiet :: rest) : blockTurn s = true := by
  simp only [blockTurn, hagenda]

/-- 60_exceptions.md R186: on its turn an idle block accepts the word at its port. -/
theorem step_eq_accept (hturn : blockTurn s = true) (hbusy : s.busy = false) (hport : s.port = w :: ws) :
    step s = .next (accept w { s with agenda := s.agenda.tail, port := ws }) := by
  simp only [step, advance, hturn, if_true, ownMove, passMoment, hbusy, Bool.false_eq_true, if_false, hport]

/-- 70_reset_and_hazards.md R211: on its turn an idle block with no word at its port stays. -/
theorem step_eq_passMoment (hturn : blockTurn s = true) (hbusy : s.busy = false) (hport : s.port = []) :
    step s = .next (passMoment s) := by
  simp only [step, advance, hturn, if_true, ownMove, passMoment, hbusy, Bool.false_eq_true, if_false, hport]

/-- 10_state.md R21, 30_encoding.md R74: the acceptance that starts the sequence is that of the INIT word, in UNINIT. -/
theorem startsSequence_iff (w : Word) (p : Phase) : startsSequence w p = true ↔ w = 0x2000#16 ∧ p = .uninit := by
  have hinit : decode w = .ok .init ↔ w = 0x2000#16 :=
    ⟨fun h => (encode_of_decode h).symm, fun h => h ▸ decode_encode .init⟩
  rw [← hinit, startsSequence]
  split <;> simp_all

/-- 60_exceptions.md R186, 10_state.md R21: an acceptance as one update of the state. -/
theorem accept_eq (w : Word) (s : State) :
    accept w s =
      { s with
        cur := w
        busy := true
        pending := .none
        phase := if w = 0x2000#16 ∧ s.phase = .uninit then .initializing else s.phase
        initStep := if w = 0x2000#16 ∧ s.phase = .uninit then 1#4 else s.initStep
        anyFail := if w = 0x2000#16 ∧ s.phase = .uninit then false else s.anyFail
        log := s.log ++ [.accepted w] } := by
  simp only [accept, enter, startsSequence_iff]
  split <;> rfl

/-- Settles O25: `step_eq_accept`, `step_eq_passMoment` and `step_eq_execute` for the block's turn, `step_eq_takeInput` for
an agent's. -/
theorem stepRunsTheDecodedRequest : Obligations.StepRunsTheDecodedRequest := by
  refine ⟨fun s w ws hturn hbusy hport => ?_, fun s hturn hbusy hport => step_eq_passMoment hturn hbusy hport,
    fun s i hturn hbusy hpending hword => ?_, fun s i rest hagenda hi => step_eq_takeInput hagenda hi,
    fun s w rest hagenda => step_eq_takeInput hagenda nofun, fun s rest hagenda => step_eq_takeInput hagenda nofun⟩
  · rw [step_eq_accept hturn hbusy hport, accept_eq]
  · rw [step_eq_execute hturn hbusy hpending, execute_of_decode_ok hword]
    rfl

/-- 30_encoding.md R78: a request is one word, so a table word of 16 bits is its number. -/
theorem tableWord_sixteen (w : Nat) : tableWord 16 w = BitVec.ofNat 16 w :=
  BitVec.eq_of_toNat_eq (Nat.mod_mod_of_dvd w (dvd_refl (2 ^ 16)))

/-- `withFetchWord` leaves the block's turn next (log 16). -/
theorem blockTurn_presentFirst (w : Word) (s : State) : blockTurn (presentFirst w s) = true := by
  by_cases hturn : blockTurn s = true
  · have hagenda : (presentFirst w s).agenda = s.agenda := by simp only [presentFirst, accept_agenda, hturn, if_true]
    simpa only [blockTurn, hagenda] using hturn
  · have hagenda : (presentFirst w s).agenda = .quiet :: s.agenda := by
      simp only [presentFirst, accept_agenda, hturn, Bool.false_eq_true, if_false]
    exact blockTurn_of_quiet hagenda

/-- On an idle block whose turn it is `withFetchWord` is the acceptance (log 16). -/
theorem presentFirst_eq_accept (hphase : s.phase ≠ .initializing) (hturn : blockTurn s = true) (w : Word) :
    presentFirst w s = accept w s := by
  simp only [presentFirst, hphase, hturn, if_false, if_true]

/-- Settles O26: after `withFetchWord` it is the block's turn and the word in `cur` waits for no answer, so the step executes
it. -/
theorem presentedTableWordRunsNext : Obligations.PresentedTableWordRunsNext := by
  intro s w i hword u
  have hu : u = presentFirst (BitVec.ofNat 16 w) s := by rw [← tableWord_sixteen]; rfl
  have hdecode : decode u.cur = .ok i := by
    rw [decodeTableWord, if_pos (le_refl _), tableWord_sixteen] at hword
    rw [hu, presentFirst, accept_cur]
    cases hd : decode (BitVec.ofNat 16 w) <;> simp_all [Except.toOption]
  have hstep : step u = exec i (passMoment u) := by
    rw [step_eq_execute (hu ▸ blockTurn_presentFirst _ s) (hu ▸ accept_busy ..)
      (hu ▸ congrArg awaiting (accept_pending ..)), execute_of_decode_ok hdecode]
  refine ⟨hstep, ?_⟩
  rw [hu]
  exact ⟨accept_cur .., accept_busy .., accept_pending .., accept_port .., accept_log .., accept_errCount ..,
    accept_busErr .., accept_reqErr .., accept_lastCause .., fun hphase hturn => presentFirst_eq_accept hphase hturn _⟩

/-- Settles O56: the block accepts the word, and the reset that is due then finds no frame in flight. -/
theorem resetMayFollowAcceptance : Obligations.ResetMayFollowAcceptance := by
  intro s w ws k rest hbusy hport hagenda
  have hacceptance := step_eq_accept (blockTurn_of_quiet hagenda) hbusy hport
  refine ⟨_, _, hacceptance, accept_busy .., accept_cur .., step_eq_takeReset (k := k) (rest := rest) ?_, ?_, rfl, rfl, rfl,
    accept_port .., rfl⟩
  · rw [accept_agenda, hagenda]
    rfl
  · simp [abandonedBytes]

theorem deliveredLog_append (l l' : List Event) : deliveredLog (l ++ l') = deliveredLog l ++ deliveredLog l' := by
  induction l with
  | nil => rfl
  | cons e l ih => cases e <;> simp only [List.cons_append, List.append_assoc, deliveredLog, ih]

/-- 20_memory.md R59: what an answer delivers is the front of the frame, all of it on Ok and `k` bytes on a failure. -/
theorem deliveredBytes_append_tail (a : BusAnswer) (f : Frame) :
    ∃ tail, deliveredBytes a f ++ tail = frameBytes f ∧ (answerResult a = .ok → tail = []) ∧
      ∀ k, a = .fail k → (deliveredBytes a f).length = k.val := by
  cases a with
  | ok => exact ⟨[], List.append_nil _, fun _ => rfl, fun k hk => nomatch hk⟩
  | fail k =>
    refine ⟨(frameBytes f).drop k.val, List.take_append_drop .., fun h => (nomatch h), ?_⟩
    rintro _ ⟨⟩
    simpa [deliveredBytes, frameLen] using Nat.le_of_lt_succ k.isLt

/-- 60_exceptions.md R173: the counter after one answer. -/
theorem busAnswered_errCount_toNat (a : BusAnswer) (s : State) :
    (busAnswered a s).errCount.toNat = min (s.errCount.toNat + failures [a]) 0xFFFF := by
  cases a with
  | ok => simpa [answerResult, isFailure, failures] using Nat.le_of_lt_succ s.errCount.isLt
  | fail k => simpa [answerResult, isFailure, failures] using saturatingIncrement_toNat s.errCount

/-- 60_exceptions.md R173: the flag after one answer. -/
theorem busAnswered_busErr_eq (a : BusAnswer) (s : State) :
    (busAnswered a s).busErr = (s.busErr || decide (failures [a] ≠ 0)) := by
  cases a <;> simp [answerResult, isFailure, failures]

theorem step_eq_busAnswered {a : BusAnswer} (hpending : s.pending = .busTx) (hagenda : s.agenda = .answer a :: rest) :
    step s = .next (busAnswered a { s with agenda := rest }) := by
  rw [step_eq_takeInput hagenda nofun]
  simp only [takeInput, hpending]

theorem step_eq_delayAnswered {n : Nat} (hpending : s.pending = .delay n) (hagenda : s.agenda = .elapsed :: rest) :
    step s = .next (delayAnswered { s with agenda := rest }) := by
  rw [step_eq_takeInput hagenda nofun]
  simp only [takeInput, hpending]

/-- Settles O30: the steps are `busAnswered` and `delayAnswered`; the bytes by `deliveredBytes_append_tail`, the records of a
failure by `busAnswered_errCount_toNat` and `busAnswered_busErr_eq`. -/
theorem transportAnswerIsRecorded : Obligations.TransportAnswerIsRecorded := by
  refine ⟨fun s a rest hbusy hpending hagenda => ?_, fun s n rest _ hpending hagenda =>
    step_eq_delayAnswered hpending hagenda⟩
  obtain ⟨tail, hbytes, hok, hfail⟩ := deliveredBytes_append_tail a s.frameBuf
  refine ⟨_, step_eq_busAnswered hpending hagenda, busAnswered_pending .., ⟨_, tail, busAnswered_log .., hbytes, hok, hfail,
    ?_⟩, busAnswered_errCount_toNat .., busAnswered_busErr_eq .., ?_⟩
  · simp [deliveredLog_append, deliveredLog]
  · simp [hbusy]

/-- 70_reset_and_hazards.md R212: an answer of the transport with no transaction in flight is discarded. -/
theorem takeInput_answer_of_ne (h : s.pending ≠ .busTx) (a : BusAnswer) : takeInput (.answer a) s = s := by
  simp only [takeInput]

/-- 70_reset_and_hazards.md R212: an answer of the timing source with no delay pending is discarded. -/
theorem takeInput_elapsed_of_ne (h : ∀ n, s.pending ≠ .delay n) : takeInput .elapsed s = s := by
  simp only [takeInput]

/-- 60_exceptions.md R190: an agent's input that answers no call in flight and is no reset moves at most the words at the
port. -/
theorem takeInput_of_unanswered {i : Input} (hreset : ∀ k, i ≠ .reset k) (hbus : ∀ a, i = .answer a → s.pending ≠ .busTx)
    (hdelay : i = .elapsed → ∀ n, s.pending ≠ .delay n) :
    ∃ ws, takeInput i s = { s with port := ws } ∧
      (ws = s.port ∨ (∃ w, i = .submit w ∧ ws = s.port ++ [w]) ∨ (i = .withdraw ∧ ws = s.port.tail)) := by
  cases i with
  | submit w => exact ⟨_, rfl, .inr (.inl ⟨w, rfl, rfl⟩)⟩
  | withdraw => exact ⟨_, rfl, .inr (.inr ⟨rfl, rfl⟩)⟩
  | answer a => exact ⟨s.port, takeInput_answer_of_ne (hbus a rfl) a, .inl rfl⟩
  | elapsed => exact ⟨s.port, takeInput_elapsed_of_ne (hdelay rfl), .inl rfl⟩
  | lateAnswer a => exact ⟨s.port, rfl, .inl rfl⟩
  | reset k => exact absurd rfl (hreset k)
  | quiet => exact ⟨s.port, rfl, .inl rfl⟩

/-- Settles O32: while a call is not answered the step is the next input (`step_of_awaiting`), which answers no call in
flight. -/
theorem unansweredCallBlocks : Obligations.UnansweredCallBlocks := by
  intro s hbusy hreset hcall
  have hwait : awaiting s.pending = true :=
    (awaiting_iff _).2 (hcall.imp And.left And.left)
  rw [step_of_awaiting hbusy hwait]
  rcases hagenda : s.agenda with _ | ⟨i, rest⟩
  · refine ⟨s.port, ?_, .inl rfl⟩
    simp only [arrive, hagenda, List.tail_nil]
    rw [← hagenda]
  · have hinput := takeInput_of_unanswered (s := { s with agenda := rest }) (i := i) ?_ ?_ ?_
    · obtain ⟨ws, htake, hws⟩ := hinput
      refine ⟨ws, ?_, ?_⟩
      · simp only [arrive, hagenda, htake, List.tail_cons]
      · simpa using hws
    · rintro k rfl
      simp [resetNext, hagenda] at hreset
    · rintro a rfl hbus
      simp_all
    · rintro rfl n hdelay
      simp_all

/-- Settles O34: the reset is `step_eq_takeReset`, whose own entry of the log holds the bytes of a frame in flight; the other
inputs answer no call in flight. -/
theorem resetAbandonsTheRequest : Obligations.ResetAbandonsTheRequest := by
  refine ⟨fun s k rest hagenda => ?_, fun s a rest hlate => ?_, fun s rest hagenda hdelay => ?_⟩
  · refine ⟨_, _, step_eq_takeReset hagenda, takeReset_log .., takeReset_port .., takeReset_agenda .., rfl, fun hbus => ?_,
      fun hbus => ?_⟩
    · simp only [abandonedBytes, hbus]
    · cases hp : s.pending <;> simp_all [abandonedBytes]
  · rcases hlate with ⟨hagenda, hbus⟩ | hagenda
    · rw [step_eq_takeInput hagenda nofun, takeInput_answer_of_ne (s := { s with agenda := rest }) hbus]
    · exact step_eq_takeInput hagenda nofun
  · rw [step_eq_takeInput hagenda nofun, takeInput_elapsed_of_ne (s := { s with agenda := rest }) hdelay]

/-- Settles O35: a reserved word is answered by `execute_of_decode_error`; the reset that is due is `step_eq_takeReset`, and
its entry of the log is no call, acceptance or response. -/
theorem priorityOfCauses : Obligations.PriorityOfCauses := by
  refine ⟨fun s w why hword => execute_of_decode_error hword s, fun s t hreset hstep => ?_⟩
  obtain ⟨k, rest, hagenda⟩ := (resetNext_iff s).1 hreset
  rw [step_eq_takeReset hagenda] at hstep
  cases hstep
  refine ⟨rfl, rfl, ?_, ?_, ?_⟩
  · simp [issuedCalls_append, issuedCalls]
  · simp [Event.isAccepted]
  · simp [Event.isResponse]

end Sys2Proof.Machine
end

section
/-! PROOFS. Everything one step can be, said once, and the rules about every step that follow from it: the port, the records,
the events of the log and their order (20_memory.md R64 to R68; 60_exceptions.md R170, R173, R186). -/

namespace Sys2Proof.Machine

variable {s t : State}

/-- What the next input of the agenda does: nothing but change the port, or one event of an agent. -/
inductive Arrival (s : State) : State → Prop
  | waits {ws : List Word} (rest : List Input)
      (hws : (∃ more, ws = s.port ++ more) ∨ (s.agenda.head? = some .withdraw ∧ ws = s.port.tail)) :
      Arrival s { s with agenda := rest, port := ws }
  | busAnswers (a : BusAnswer) (rest : List Input) (hpending : s.pending = .busTx) :
      Arrival s (busAnswered a { s with agenda := rest })
  | delayAnswers {n : Nat} (rest : List Input) (hpending : s.pending = .delay n) :
      Arrival s (delayAnswered { s with agenda := rest })
  | resets (k : Fin 5) (rest : List Input) (hreset : resetNext s = true) :
      Arrival s (takeReset k { s with agenda := rest })

theorem arrival_arrive (s : State) : Arrival s (arrive s) := by
  rcases arrive_cases s with ⟨_, h⟩ | ⟨i, rest, hagenda, h⟩
  · rw [h]
    exact .waits s.agenda (.inl ⟨[], (List.append_nil _).symm⟩)
  rcases h with ⟨ws, hws, h⟩ | ⟨a, _, hpending, h⟩ | ⟨_, ⟨n, hpending⟩, h⟩ | ⟨k, rfl, h⟩ | ⟨_, _, _, _, _, h⟩ <;> rw [h]
  · refine .waits rest ?_
    rcases hws with ⟨w, _, rfl⟩ | ⟨rfl, rfl⟩
    · exact .inl ⟨[w], rfl⟩
    · exact .inr ⟨by rw [hagenda]; rfl, rfl⟩
  · exact .busAnswers a rest hpending
  · exact .delayAnswers rest hpending
  · exact .resets k rest ((resetNext_iff s).2 ⟨k, rest, hagenda⟩)
  · exact .waits rest (.inl ⟨[], (List.append_nil _).symm⟩)

/-- What one step does: the next input, an acceptance, or one event of the request in progress after a change of the
sequencer's fields. -/
inductive StepEffect (s : State) : State → Prop
  | waits {ws : List Word} (rest : List Input)
      (hws : (∃ more, ws = s.port ++ more) ∨ (s.agenda.head? = some .withdraw ∧ ws = s.port.tail)) :
      StepEffect s { s with agenda := rest, port := ws }
  | busAnswers (a : BusAnswer) (rest : List Input) (hpending : s.pending = .busTx) :
      StepEffect s (busAnswered a { s with agenda := rest })
  | delayAnswers {n : Nat} (rest : List Input) (hpending : s.pending = .delay n) :
      StepEffect s (delayAnswered { s with agenda := rest })
  | resets (k : Fin 5) (rest : List Input) (hreset : resetNext s = true) :
      StepEffect s (takeReset k { s with agenda := rest })
  | accepts (w : Word) (ws : List Word) (hbusy : s.busy = false) :
      StepEffect s (accept w { passMoment s with port := ws })
  | responds (c : Response) (p : Phase) (k : BitVec 4) (a : Bool) (hbusy : s.busy = true)
      (hpending : awaiting s.pending = false) : StepEffect s (respond c (setSequencer p k a (passMoment s)))
  | sends (b : Byte) (rs : Bool) (p : Phase) (k : BitVec 4) (a : Bool) (hbusy : s.busy = true)
      (hpending : awaiting s.pending = false) : StepEffect s (sendFrame b rs (setSequencer p k a (passMoment s)))
  | delays {n : Nat} (p : Phase) (k : BitVec 4) (a : Bool) (hn : 0 < n) (hbusy : s.busy = true)
      (hpending : awaiting s.pending = false) : StepEffect s (issueDelay n (setSequencer p k a (passMoment s)))

theorem stepEffect_of_arrival (h : Arrival s t) : StepEffect s t := by
  cases h with
  | waits rest hws => exact .waits rest hws
  | busAnswers a rest hpending => exact .busAnswers a rest hpending
  | delayAnswers rest hpending => exact .delayAnswers rest hpending
  | resets k rest hreset => exact .resets k rest hreset

theorem stepEffect_of_sequenceMove (hbusy : s.busy = true) (hpending : awaiting s.pending = false)
    (h : SequenceMove (passMoment s) t) : StepEffect s t := by
  cases h with
  | wait p k a hn => exact .delays p k a hn hbusy hpending
  | send p k a b => exact .sends b false p k a hbusy hpending
  | complete p k a hc => exact .responds _ p k a hbusy hpending

theorem stepEffect_of_execute {w : Word} (hbusy : s.busy = true) (hpending : awaiting s.pending = false)
    (h : execute w (passMoment s) = .next t) : StepEffect s t := by
  have hwait : awaiting (passMoment s).pending ≠ true := by simp [hpending]
  have responds (c : Response) : StepEffect s (respond c (passMoment s)) :=
    .responds c s.phase s.initStep s.anyFail hbusy hpending
  rcases execute_cases h with ⟨_, _, rfl⟩ | ⟨i, _, h⟩
  · exact responds _
  cases i with
  | sendByte rs b =>
    rcases execSendByte_cases h with ⟨_, _, rfl⟩ | ⟨_, _, rfl⟩ | ⟨r, _, rfl⟩ | ⟨hp, _⟩
    · exact responds _
    · exact .sends b rs s.phase s.initStep s.anyFail hbusy hpending
    · exact responds _
    · exact absurd hp hwait
  | init =>
    rcases execInit_move h with ⟨_, _, rfl⟩ | ⟨hp, _⟩ | ⟨_, _, hmove⟩
    · exact responds _
    · exact absurd hp hwait
    · exact stepEffect_of_sequenceMove hbusy hpending hmove

theorem step_effect (h : step s = .next t) : StepEffect s t := by
  rcases step_cases h with ⟨_, rfl⟩ | ⟨_, hbusy, hpending, h⟩ | ⟨_, hbusy, w, ws, _, rfl⟩
  · exact stepEffect_of_arrival (arrival_arrive s)
  · exact stepEffect_of_execute hbusy hpending h
  · exact .accepts w ws hbusy

/-- Settles O29: the port is changed by an agent alone while the block is busy, and no event but an acceptance is one. -/
theorem busyBlockHoldsPresentedWords : Obligations.BusyBlockHoldsPresentedWords := by
  intro s t hbusy h
  have hsame (u : State) (hport : u.port = s.port) : ∃ more, u.port = s.port ++ more := ⟨[], by simp [hport]⟩
  cases step_effect h with
  | waits rest hws => exact ⟨hws, rfl⟩
  | busAnswers a rest hpending => exact ⟨.inl (hsame _ (busAnswered_port ..)), by simp [Event.isAccepted]⟩
  | delayAnswers rest hpending => exact ⟨.inl (hsame _ rfl), by simp [Event.isAccepted]⟩
  | resets k rest hreset => exact ⟨.inl (hsame _ rfl), by simp [Event.isAccepted]⟩
  | accepts w ws hidle => simp [hbusy] at hidle
  | responds c p k a hb hp => exact ⟨.inl (hsame _ rfl), by simp [Event.isAccepted]⟩
  | sends b rs p k a hb hp => exact ⟨.inl (hsame _ rfl), by simp [Event.isAccepted]⟩
  | delays p k a hn hb hp => exact ⟨.inl (hsame _ rfl), by simp [Event.isAccepted]⟩

/-- A failure is at most one per answer. -/
theorem failures_singleton_le (a : BusAnswer) : failures [a] ≤ 1 := by cases a <;> simp [failures]

/-- Settles O47: a response may set `req_err`, and an answer of the transport may count one failure and set `bus_err`; without
a reset nothing else writes the records. -/
theorem recordsOnlyAccumulate : Obligations.RecordsOnlyAccumulate := by
  intro s t hreset h
  cases step_effect h with
  | busAnswers a rest hpending =>
    have hcount := busAnswered_errCount_toNat a { s with agenda := rest }
    have hfailures := failures_singleton_le a
    have hmax := s.errCount.isLt
    dsimp only at hcount
    exact ⟨by omega, by omega, fun hb => by simp [hb], fun hr => by simp [hr]⟩
  | resets k rest hdue => simp [hreset] at hdue
  | responds c p k a hb hp => exact ⟨le_rfl, Nat.le_succ _, id, fun hr => by simp [hr]⟩
  | waits | delayAnswers | accepts | sends | delays => simp

theorem length_filter_append (p : Event → Bool) (log : List Event) (e : Event) :
    ((log ++ [e]).filter p).length = (log.filter p).length + (p e).toNat := by
  cases h : p e <;> simp [h]

/-- Settles O48: an acceptance is logged as `busy` is set and a response as it is cleared; nothing else logs either or moves
`busy`. -/
theorem oneResponsePerAcceptance : Obligations.OneResponsePerAcceptance := by
  intro s t hreset h
  cases step_effect h with
  | resets k rest hdue => simp [hreset] at hdue
  | waits => rfl
  | accepts w ws hidle =>
    simp only [accept_log, accept_busy, passMoment_log, length_filter_append, Event.isAccepted, Event.isResponse, hidle,
      Bool.toNat_true, Bool.toNat_false]
    omega
  | responds c p k a hbusy hpending =>
    simp only [respond_log, respond_busy, setSequencer_log, passMoment_log, length_filter_append, Event.isAccepted,
      Event.isResponse, hbusy, Bool.toNat_true, Bool.toNat_false]
    omega
  | busAnswers | delayAnswers | sends | delays => simp [Event.isAccepted, Event.isResponse]

/-- What leaves `busy`, `cur` and the log's request in progress leaves their agreement. -/
theorem namesItsRequest_of_same (h : s.NamesItsRequest) (hrun : runningRequest t.log = runningRequest s.log)
    (hbusy : t.busy = s.busy) (hcur : t.cur = s.cur) : t.NamesItsRequest := by
  rw [State.NamesItsRequest, hrun, hbusy, hcur]
  exact h

/-- Settles O58: an acceptance names the word it latches, a response or a reset names none and leaves the block idle, and no
other event touches the request in progress, `busy` or `cur`. -/
theorem logNamesTheRequest : Obligations.LogNamesTheRequest := by
  refine ⟨rfl, fun s t hnames h => ?_⟩
  cases step_effect h with
  | waits => exact hnames
  | resets | accepts | responds => simp [State.NamesItsRequest, runningAfter]
  | busAnswers | delayAnswers | sends | delays =>
    exact namesItsRequest_of_same hnames (by simp [runningAfter]) (by simp) (by simp)

theorem properLog_append {e : Event} (h : s.ProperLog) (hlog : t.log = s.log ++ [e]) (he : e.Proper) : t.ProperLog := by
  unfold State.ProperLog
  rw [hlog, List.forall_mem_append, List.forall_mem_singleton]
  exact ⟨h, he⟩

/-- 20_memory.md R59: an answer delivers all four bytes on Ok and at most four on Fail. -/
theorem busAnswer_proper (a : BusAnswer) (f : Frame) :
    (Event.busAnswer (answerResult a) (deliveredBytes a f)).Proper :=
  ⟨deliveredBytes_length_le a f, fun hok => by cases a <;> simp_all [answerResult, deliveredBytes]⟩

/-- 70_reset_and_hazards.md R212: of the frame in flight a reset delivers at most four bytes. -/
theorem abandonedBytes_length_le (k : Fin 5) (s : State) : (abandonedBytes k s).length ≤ frameLen := by
  unfold abandonedBytes
  split <;> simp [frameLen]

/-- Settles O44: each event a step adds is proper. -/
theorem eventsStayProper : Obligations.EventsStayProper := by
  intro s t hlog h
  cases step_effect h with
  | waits => exact hlog
  | busAnswers a rest => exact properLog_append hlog (busAnswered_log ..) (busAnswer_proper a _)
  | delayAnswers => exact properLog_append hlog rfl trivial
  | resets k rest => exact properLog_append hlog rfl (abandonedBytes_length_le k _)
  | accepts w ws => exact properLog_append hlog (accept_log ..) trivial
  | responds => exact properLog_append hlog rfl trivial
  | sends b rs => exact properLog_append hlog rfl ⟨b, rs, rfl⟩
  | delays p k a hn => exact properLog_append hlog rfl hn

/-- A call in flight belongs to a request in progress (10_state.md R40). -/
theorem busy_of_pending (hinv : s.Inv = true) (hpending : s.pending ≠ .none) : s.busy = true := by
  by_contra hbusy
  obtain ⟨hidle, _⟩ := inv_iff.1 hinv
  exact hpending (idleOk_iff.1 hidle (by simpa using hbusy)).1

@[simp] theorem logCourse_append (log : List Event) (e : Event) :
    logCourse (log ++ [e]) = courseAfter (logCourse log) e := by
  simp [logCourse]

theorem course_of_idle (hbusy : s.busy = false) : s.course = .idle := by
  simp only [State.course, hbusy, Bool.false_eq_true, if_false]

theorem course_of_busTx (hbusy : s.busy = true) (hpending : s.pending = .busTx) : s.course = .inTransaction := by
  simp only [State.course, hbusy, hpending, if_true]

theorem course_of_delay {n : Nat} (hbusy : s.busy = true) (hpending : s.pending = .delay n) : s.course = .inDelay n := by
  simp only [State.course, hbusy, hpending, if_true]

theorem course_of_running (hbusy : s.busy = true) (hpending : awaiting s.pending = false) : s.course = .running := by
  unfold State.course
  rw [if_pos hbusy]
  split <;> simp_all [awaiting]

/-- 60_exceptions.md R170, 70_reset_and_hazards.md R212: a log in order allows a reset at any time. -/
theorem courseAfter_reset (c : Course) (bytes : List Byte) : courseAfter (some c) (.reset bytes) = some .idle := by
  cases c <;> rfl

/-- Settles O43: from where the state says the block stands, the event of the step is allowed and leads to where the next
state says it stands. -/
theorem eventsStayInOrder : Obligations.EventsStayInOrder := by
  intro s t hinv hlog h
  unfold State.OrderlyLog at hlog ⊢
  cases step_effect h with
  | waits => exact hlog
  | busAnswers a rest hpending =>
    have hbusy := busy_of_pending hinv (by simp [hpending])
    rw [course_of_busTx hbusy hpending] at hlog
    rw [course_of_running (by simpa using hbusy) (by simp [awaiting])]
    simp [hlog, courseAfter]
  | delayAnswers rest hpending =>
    have hbusy := busy_of_pending hinv (by simp [hpending])
    rw [course_of_delay hbusy hpending] at hlog
    rw [course_of_running (by simpa using hbusy) (by simp [awaiting])]
    simp [hlog, courseAfter]
  | resets k rest =>
    rw [course_of_idle rfl]
    simp [hlog, courseAfter_reset]
  | accepts w ws hidle =>
    rw [course_of_idle hidle] at hlog
    rw [course_of_running (accept_busy ..) (by simp [awaiting])]
    simp [hlog, courseAfter]
  | responds c p k a hbusy hpending =>
    rw [course_of_running hbusy hpending] at hlog
    rw [course_of_idle rfl]
    simp [hlog, courseAfter]
  | sends b rs p k a hbusy hpending =>
    rw [course_of_running hbusy hpending] at hlog
    rw [course_of_busTx (by simpa using hbusy) rfl]
    simp [hlog, courseAfter]
  | delays p k a hn hbusy hpending =>
    rw [course_of_running hbusy hpending] at hlog
    rw [course_of_delay (by simpa using hbusy) rfl]
    simp [hlog, courseAfter]

/-- 20_memory.md R65: what leaves a delay pending is its issue. -/
theorem eq_delay_of_courseAfter {c : Option Course} {e : Event} {n : Nat} (h : courseAfter c e = some (.inDelay n)) :
    e = .delay n := by
  unfold courseAfter at h
  split at h <;> simp_all

/-- 20_memory.md R65: a log in order that ends in a delay has issued it last. -/
theorem exists_log_of_inDelay {log : List Event} {n : Nat} (h : logCourse log = some (.inDelay n)) :
    ∃ before, log = before ++ [.delay n] := by
  induction log using List.reverseRecOn with
  | nil => cases h
  | append_singleton before e _ =>
    rw [logCourse_append] at h
    exact ⟨before, by rw [eq_delay_of_courseAfter h]⟩

/-- An event that answers no delay adds nothing to the answered units. -/
theorem answeredUnits_append {e : Event} (he : e ≠ .delayAnswer) (waiting : Nat) (log : List Event) :
    answeredUnits waiting (log ++ [e]) = answeredUnits waiting log := by
  induction log generalizing waiting with
  | nil =>
    cases e with
    | delayAnswer => exact absurd rfl he
    | _ => rfl
  | cons x log ih => cases x <;> simp only [List.cons_append, answeredUnits, ih]

/-- The answer to a delay issued last adds its units. -/
theorem answeredUnits_append_answer (n waiting : Nat) (log : List Event) :
    answeredUnits waiting (log ++ [.delay n] ++ [.delayAnswer]) = answeredUnits waiting (log ++ [.delay n]) + n := by
  induction log generalizing waiting with
  | nil => simp [answeredUnits]
  | cons x log ih => cases x <;> simp only [List.cons_append, answeredUnits, ih, Nat.add_assoc]

/-- Settles O57: the answer to a pending delay follows its issue in the log (`exists_log_of_inDelay`), so it adds the units
(`answeredUnits_append_answer`); no other event adds any, and no other step marks a pending delay answered. -/
theorem delaysCountWhenAnswered : Obligations.DelaysCountWhenAnswered := by
  intro s t hinv hlog h
  have hother {e : Event} (he : e ≠ .delayAnswer) : delayUnits (s.log ++ [e]) = delayUnits s.log :=
    answeredUnits_append he 0 s.log
  cases step_effect h with
  | waits => cases s.pending <;> rfl
  | busAnswers a rest hpending => simp [hpending, hother]
  | delayAnswers rest hpending =>
    have hbusy := busy_of_pending hinv (by simp [hpending])
    rw [State.OrderlyLog, course_of_delay hbusy hpending] at hlog
    obtain ⟨before, hbefore⟩ := exists_log_of_inDelay hlog
    simpa [delayUnits, hpending, hbefore] using answeredUnits_append_answer _ 0 before
  | resets | accepts | responds | sends | delays => simp [hother]

end Sys2Proof.Machine
end

section
/-! PROOFS. The shapes of a legal state (10_state.md R21 to R25, R40): how one is recognized, and what a legal state that is
busy, or has a transaction in flight, is. -/

namespace Sys2Proof.Machine

variable {s t : State} {rs : Bool} {b : Byte} {n : Nat}

theorem initStep_eq_zero (hinv : s.Inv = true) (hphase : s.phase ≠ .initializing) : s.initStep = 0#4 := by
  obtain ⟨_, hstep, _⟩ := inv_iff.1 hinv
  exact (initStepOk_iff.1 hstep).2 hphase

theorem recordsOk_of_inv (hinv : s.Inv = true) : s.recordsOk = true := by
  obtain ⟨_, _, _, hrec⟩ := inv_iff.1 hinv
  exact hrec

theorem idleOk_of_busy (hbusy : s.busy = true) : s.idleOk = true := idleOk_iff.2 fun h => by simp [hbusy] at h

theorem initStepOk_of_ne (hphase : s.phase ≠ .initializing) (hk : s.initStep = 0#4) : s.initStepOk = true :=
  initStepOk_iff.2 ⟨fun h => absurd h hphase, fun _ => hk⟩

theorem initStepOk_of_step {i : InitStep} (hphase : s.phase = .initializing) (hk : initTable s.initStep = some i) :
    s.initStepOk = true :=
  initStepOk_iff.2 ⟨fun _ => initTable_some hk, fun h => absurd hphase h⟩

/-- An idle block out of INITIALIZING, with nothing in flight. -/
theorem inv_of_idle (hbusy : s.busy = false) (hpending : s.pending = .none) (hphase : s.phase ≠ .initializing)
    (hk : s.initStep = 0#4) (hrec : s.recordsOk = true) : s.Inv = true := by
  refine inv_iff.2 ⟨idleOk_iff.2 fun _ => ⟨hpending, hphase⟩, initStepOk_of_ne hphase hk, ?_, hrec⟩
  simp only [State.requestOk, hbusy, Bool.not_false, Bool.true_or]

/-- A request just accepted. -/
theorem inv_of_accepted (hbusy : s.busy = true) (hpending : s.pending = .none) (hstep : s.initStepOk = true)
    (haccepted : s.acceptedOk = true) (hrec : s.recordsOk = true) : s.Inv = true := by
  refine inv_iff.2 ⟨idleOk_of_busy hbusy, hstep, ?_, hrec⟩
  simp only [State.requestOk, hpending, haccepted, decide_true, Bool.and_self, Bool.or_true, Bool.true_or]

/-- A SENDBYTE with its transaction in flight or answered. -/
theorem inv_of_sendByte (hbusy : s.busy = true) (hword : decode s.cur = .ok (.sendByte rs b)) (hphase : s.phase = .ready)
    (hk : s.initStep = 0#4) (hcall : s.sendByteCallOk rs b = true) (hrec : s.recordsOk = true) : s.Inv = true := by
  refine inv_iff.2 ⟨idleOk_of_busy hbusy, initStepOk_of_ne (by simp [hphase]) hk, ?_, hrec⟩
  simp only [State.requestOk, hword, hphase, hcall, decide_true, Bool.and_self, Bool.or_true]

/-- An INIT with a call of its step in flight or answered. -/
theorem inv_of_init (hbusy : s.busy = true) (hword : decode s.cur = .ok .init) (hphase : s.phase = .initializing)
    (hcall : s.initCallOk = true) (hrec : s.recordsOk = true) : s.Inv = true := by
  have hstep : s.initStepOk = true := by
    cases hk : initTable s.initStep with
    | none => simp [State.initCallOk, hk] at hcall
    | some i => exact initStepOk_of_step hphase hk
  refine inv_iff.2 ⟨idleOk_of_busy hbusy, hstep, ?_, hrec⟩
  simp only [State.requestOk, hword, hphase, hcall, decide_true, Bool.and_self, Bool.or_true]

/-- The three shapes of a legal state with a request in progress. -/
theorem busy_cases (hinv : s.Inv = true) (hbusy : s.busy = true) :
    (s.pending = .none ∧ s.acceptedOk = true) ∨
    (∃ rs b, decode s.cur = .ok (.sendByte rs b) ∧ s.phase = .ready ∧ s.sendByteCallOk rs b = true) ∨
    (decode s.cur = .ok .init ∧ s.phase = .initializing ∧ s.initCallOk = true) := by
  obtain ⟨_, _, hrequest, _⟩ := inv_iff.1 hinv
  simp only [State.requestOk, hbusy, Bool.not_true, Bool.false_or, Bool.or_eq_true, Bool.and_eq_true,
    decide_eq_true_eq] at hrequest
  rcases hrequest with h | h
  · exact .inl h
  · split at h
    · rename_i rs b hword
      simp only [Bool.and_eq_true, decide_eq_true_eq] at h
      exact .inr (.inl ⟨rs, b, hword, h⟩)
    · rename_i hword
      simp only [Bool.and_eq_true, decide_eq_true_eq] at h
      exact .inr (.inr ⟨hword, h⟩)
    · cases h

/-- The words just accepted, each with its phases. -/
theorem acceptedOk_cases (h : s.acceptedOk = true) :
    ((∃ why, decode s.cur = .error why) ∧ s.phase ≠ .initializing) ∨
    ((∃ rs b, decode s.cur = .ok (.sendByte rs b)) ∧ s.phase ≠ .initializing) ∨
    (decode s.cur = .ok .init ∧ s.phase = .ready) ∨
    (decode s.cur = .ok .init ∧ s.phase = .initializing ∧ s.initStep = 1#4 ∧ s.anyFail = false) := by
  unfold State.acceptedOk at h
  split at h <;> rename_i hword <;> rw [decide_eq_true_eq] at h
  · rcases h with h | h
    · exact .inr (.inr (.inl ⟨hword, h⟩))
    · exact .inr (.inr (.inr ⟨hword, h⟩))
  · exact .inr (.inl ⟨⟨_, _, hword⟩, h⟩)
  · exact .inl ⟨⟨_, hword⟩, h⟩

/-- The calls of a SENDBYTE. -/
theorem sendByteCallOk_iff : s.sendByteCallOk rs b = true ↔
    (s.pending = .busTx ∧ s.frameBuf = frameOf b rs) ∨ ∃ r, s.pending = .busDone r := by
  unfold State.sendByteCallOk
  split <;> simp_all

/-- The calls of an init step. -/
theorem initCallOk_iff : s.initCallOk = true ↔
    (∃ n, initTable s.initStep = some (.waitOnly n) ∧ (s.pending = .delay n ∨ s.pending = .delayDone)) ∨
    ∃ b n, initTable s.initStep = some (.send b n) ∧
      ((s.pending = .busTx ∧ s.frameBuf = frameOf b false) ∨ (∃ r, s.pending = .busDone r) ∨
        (n ≠ 0 ∧ (s.pending = .delay n ∨ s.pending = .delayDone))) := by
  unfold State.initCallOk
  split
  · rename_i n hk
    simp [hk]
  · rename_i b n hk
    split <;> rename_i hp
    · simp [hk, hp]
    · simp [hk, hp]
    · rename_i m
      have hwait : m = n ∧ n ≠ 0 ↔ n = m ∧ m ≠ 0 := by
        constructor <;> rintro ⟨rfl, hm⟩ <;> exact ⟨rfl, hm⟩
      simpa [hk, hp] using hwait
    · simp [hk, hp]
    · simp [hk, hp]
  · rename_i hk
    simp [hk]

/-- 10_state.md R25: a transaction in flight has a whole frame in `frame_buf`. -/
theorem frameBuf_of_busTx (hinv : s.Inv = true) (hpending : s.pending = .busTx) : ∃ b rs, s.frameBuf = frameOf b rs := by
  have hbusy := busy_of_pending hinv (by simp [hpending])
  rcases busy_cases hinv hbusy with ⟨hp, _⟩ | ⟨rs, b, _, _, hcall⟩ | ⟨_, _, hcall⟩
  · simp [hpending] at hp
  · rcases sendByteCallOk_iff.1 hcall with ⟨_, hframe⟩ | ⟨r, hp⟩
    · exact ⟨b, rs, hframe⟩
    · simp [hpending] at hp
  · rcases initCallOk_iff.1 hcall with ⟨n, _, hp⟩ | ⟨b, n, _, ⟨_, hframe⟩ | hp⟩
    · simp [hpending] at hp
    · exact ⟨b, false, hframe⟩
    · simp [hpending] at hp

end Sys2Proof.Machine
end

section
/-! PROOFS. The moves of a request from a legal state: that there is one, and which (41_init_sequencer.md R132 to R143,
40_frame_encoder.md R105, 60_exceptions.md R174 to R176). -/

namespace Sys2Proof.Machine

variable {s t : State}

/-- The move of a request in a legal state: a refusal, a transaction or a response of a SENDBYTE, or the sequence from one
call of a step to the next. -/
inductive LegalMove (s : State) : State → Prop
  | refuses {c : Response} (hc : refusesRequest c = true) (hpending : s.pending = .none) (hphase : s.phase ≠ .initializing) :
      LegalMove s (respond c s)
  | sends {rs : Bool} {b : Byte} (hword : decode s.cur = .ok (.sendByte rs b)) (hpending : s.pending = .none)
      (hphase : s.phase = .ready) : LegalMove s (sendFrame b rs s)
  | answers {rs : Bool} {b : Byte} {r : BusResult} (hword : decode s.cur = .ok (.sendByte rs b))
      (hpending : s.pending = .busDone r) (hphase : s.phase = .ready) : LegalMove s (respond (transactionResponse r) s)
  | begins (hword : decode s.cur = .ok .init) (hpending : s.pending = .none) (hphase : s.phase = .initializing)
      (hk : s.initStep = 1#4) : LegalMove s (issueDelay 50 s)
  | waits {r : BusResult} {b : Byte} {n : Nat} (hword : decode s.cur = .ok .init) (hpending : s.pending = .busDone r)
      (hphase : s.phase = .initializing) (hstep : initTable s.initStep = some (.send b n)) (hn : n ≠ 0) :
      LegalMove s (issueDelay n (noteFailure r s))
  | advances {b : Byte} {n : Nat} {a : Bool} (hword : decode s.cur = .ok .init)
      (hpending : s.pending = .delayDone ∨ ∃ r, s.pending = .busDone r) (hphase : s.phase = .initializing)
      (hlast : s.initStep ≠ 10#4) (hstep : initTable (s.initStep + 1#4) = some (.send b n))
      (ha : a = true → s.anyFail = true ∨ s.pending = .busDone .fail) :
      LegalMove s (sendFrame b false (setSequencer .initializing (s.initStep + 1#4) a s))
  | completes {r : BusResult} (hword : decode s.cur = .ok .init) (hpending : s.pending = .busDone r)
      (hphase : s.phase = .initializing) (hlast : s.initStep = 10#4) : LegalMove s (completeInit (noteFailure r s))

/-- A request just accepted is refused or makes its first call. -/
theorem legalMove_of_accepted (hpending : s.pending = .none) (haccepted : s.acceptedOk = true) :
    ∃ t, execute s.cur s = .next t ∧ LegalMove s t := by
  rcases acceptedOk_cases haccepted with ⟨⟨why, hword⟩, hphase⟩ | ⟨⟨rs, b, hword⟩, hphase⟩ | ⟨hword, hphase⟩ |
    ⟨hword, hphase, hk, hany⟩
  · exact ⟨_, execute_of_decode_error hword s, .refuses rfl hpending hphase⟩
  · rw [execute_of_decode_ok hword]
    cases hp : s.phase with
    | uninit => exact ⟨_, exec_sendByte_of_uninit hp hpending rs b, .refuses rfl hpending hphase⟩
    | initializing => exact absurd hp hphase
    | ready => exact ⟨_, exec_sendByte_of_ready hp hpending rs b, .sends hword hpending hp⟩
  · rw [execute_of_decode_ok hword]
    exact ⟨_, exec_init_of_ready hphase hpending, .refuses rfl hpending (by simp [hphase])⟩
  · rw [execute_of_decode_ok hword, exec_init_of_start (by simp [hphase]) hpending]
    have hentered : enterSequence s = s := by
      simp only [enterSequence, ← hphase, ← hk, ← hany]
    rw [hentered]
    exact ⟨_, rfl, .begins hword hpending hphase hk⟩

/-- 41_init_sequencer.md R133 to R142: every step before the last is followed by one that sends. -/
theorem initTable_next {k : BitVec 4} {i : InitStep} (hk : initTable k = some i) (hlast : k ≠ 10#4) :
    ∃ b n, initTable (k + 1#4) = some (.send b n) := by
  have hsteps : ∀ k : BitVec 4, (initTable k).isSome = true → k ≠ 10#4 →
      (initTable (k + 1#4)).any (· matches .send _ _) = true := by decide
  have hnext := hsteps k (by rw [hk]; rfl) hlast
  rcases h : initTable (k + 1#4) with _ | _ | ⟨b, n⟩
  · simp [h] at hnext
  · simp [h] at hnext
  · exact ⟨b, n, rfl⟩

/-- 41_init_sequencer.md R142: step 10 does not wait. -/
theorem step_ne_last_of_wait {b : Byte} {n : Nat} {k : BitVec 4} (hk : initTable k = some (.send b n)) (hn : n ≠ 0) :
    k ≠ 10#4 := by
  rintro rfl
  cases hk
  exact hn rfl

/-- After a step's wait the sequence goes on to the next step. -/
theorem legalMove_of_delayDone {i : InitStep} (hword : decode s.cur = .ok .init) (hpending : s.pending = .delayDone)
    (hphase : s.phase = .initializing) (hk : initTable s.initStep = some i) (hlast : s.initStep ≠ 10#4) :
    ∃ t, exec .init s = .next t ∧ LegalMove s t := by
  obtain ⟨b, n, hstep⟩ := initTable_next hk hlast
  rw [exec_init_of_delayDone hpending, finishInitStep_of_next hlast hstep]
  refine ⟨_, rfl, ?_⟩
  have hmove := LegalMove.advances hword (.inl hpending) hphase hlast hstep (a := s.anyFail) .inl
  rwa [← hphase] at hmove

/-- After a step's transaction the sequence waits, goes on to the next step, or completes. -/
theorem legalMove_of_busDone {r : BusResult} {b : Byte} {n : Nat} (hword : decode s.cur = .ok .init)
    (hpending : s.pending = .busDone r) (hphase : s.phase = .initializing)
    (hk : initTable s.initStep = some (.send b n)) : ∃ t, exec .init s = .next t ∧ LegalMove s t := by
  by_cases hn : n = 0
  · subst hn
    by_cases hlast : s.initStep = 10#4
    · exact ⟨_, exec_init_of_last hpending hlast, .completes hword hpending hphase hlast⟩
    · obtain ⟨b', n', hstep⟩ := initTable_next hk hlast
      rw [exec_init_of_busDone hpending, afterInitSend_of_no_wait hk,
        finishInitStep_of_next (s := noteFailure r s) hlast hstep]
      refine ⟨_, rfl, ?_⟩
      have hmove := LegalMove.advances hword (.inr ⟨r, hpending⟩) hphase hlast hstep (a := s.anyFail || isFailure r) ?_
      · rwa [← hphase] at hmove
      · cases r <;> simp [hpending, isFailure]
  · rw [exec_init_of_busDone hpending, afterInitSend_of_wait hk hn]
    exact ⟨_, rfl, .waits hword hpending hphase hk hn⟩

/-- From a legal state a request that waits for no answer has a move. -/
theorem legal_execute (hinv : s.Inv = true) (hbusy : s.busy = true) (hpending : awaiting s.pending = false) :
    ∃ t, execute s.cur s = .next t ∧ LegalMove s t := by
  rcases busy_cases hinv hbusy with ⟨hp, haccepted⟩ | ⟨rs, b, hword, hphase, hcall⟩ | ⟨hword, hphase, hcall⟩
  · exact legalMove_of_accepted hp haccepted
  · rw [execute_of_decode_ok hword]
    rcases sendByteCallOk_iff.1 hcall with ⟨hp, _⟩ | ⟨r, hp⟩
    · simp [hp, awaiting] at hpending
    · exact ⟨_, exec_sendByte_of_busDone hp rs b, .answers hword hp hphase⟩
  · rw [execute_of_decode_ok hword]
    rcases initCallOk_iff.1 hcall with ⟨n, hk, hp | hp⟩ | ⟨b, n, hk, ⟨hp, _⟩ | ⟨r, hp⟩ | ⟨hn, hp | hp⟩⟩
    · simp [hp, awaiting] at hpending
    · refine legalMove_of_delayDone hword hp hphase hk ?_
      rw [(initTable_waitOnly hk).1]
      decide
    · simp [hp, awaiting] at hpending
    · exact legalMove_of_busDone hword hp hphase hk
    · simp [hp, awaiting] at hpending
    · exact legalMove_of_delayDone hword hp hphase hk (step_ne_last_of_wait hk hn)

end Sys2Proof.Machine
end

section
/-! PROOFS. A step from a legal state exists and leads to a legal state (10_state.md R21 to R25, R40; 60_exceptions.md R170 to
R173, R179), and what it does to `phase` and `init_step` (10_state.md R21, R22). -/

namespace Sys2Proof.Machine

variable {s t : State}

/-- A step from a legal state: the next input, a move of the request in progress, an acceptance. -/
inductive LegalStep (s : State) : State → Prop
  | arrives {t : State} (h : Arrival s t) : LegalStep s t
  | moves {t : State} (hturn : blockTurn s = true) (hbusy : s.busy = true) (h : LegalMove (passMoment s) t) : LegalStep s t
  | accepts (w : Word) (ws : List Word) (hbusy : s.busy = false) : LegalStep s (accept w { passMoment s with port := ws })

theorem legal_step (hinv : s.Inv = true) (h : step s = .next t) : LegalStep s t := by
  rcases step_cases h with ⟨_, rfl⟩ | ⟨hturn, hbusy, hpending, h⟩ | ⟨_, hbusy, w, ws, _, rfl⟩
  · exact .arrives (arrival_arrive s)
  · obtain ⟨u, hu, hmove⟩ := legal_execute (s := passMoment s) hinv hbusy hpending
    obtain rfl : u = t := Host.Outcome.next.inj (hu.symm.trans h)
    exact .moves hturn hbusy hmove
  · exact .accepts w ws hbusy

/-- Settles O42: an input always takes effect, an idle block accepts or stays, a call not answered stays, and any other
request in progress has a move (`legal_execute`). -/
theorem legalStatesNeverStop : Obligations.LegalStatesNeverStop := by
  intro s hinv
  cases hturn : blockTurn s with
  | false => exact ⟨arrive s, by simp only [step, advance, hturn, Bool.false_eq_true, if_false]⟩
  | true =>
    cases hbusy : s.busy with
    | false =>
      rcases hport : s.port with _ | ⟨w, ws⟩
      · exact ⟨_, step_eq_passMoment hturn hbusy hport⟩
      · exact ⟨_, step_eq_accept hturn hbusy hport⟩
    | true =>
      cases hpending : awaiting s.pending with
      | true => exact ⟨_, step_of_awaiting hbusy hpending⟩
      | false =>
        obtain ⟨t, ht, _⟩ := legal_execute (s := passMoment s) hinv hbusy hpending
        exact ⟨t, (step_eq_execute hturn hbusy hpending).trans ht⟩

theorem busErr_of_anyFail (h : s.recordsOk = true) (ha : s.anyFail = true) : s.busErr = true := by
  obtain ⟨_, _, _, hany, _⟩ := recordsOk_iff.1 h
  exact hany ha

theorem busErr_of_fail (h : s.recordsOk = true) (hp : s.pending = .busDone .fail) : s.busErr = true := by
  obtain ⟨_, _, _, _, hfail⟩ := recordsOk_iff.1 h
  exact hfail hp

/-- 60_exceptions.md R172: a failure is recorded before INIT notes it. -/
theorem noteFailure_recordsOk {r : BusResult} (h : s.recordsOk = true) (hpending : s.pending = .busDone r) :
    (noteFailure r s).recordsOk = true := by
  obtain ⟨hcount, hreq, hbus, hany, hfail⟩ := recordsOk_iff.1 h
  refine recordsOk_iff.2 ⟨hcount, hreq, hbus, fun ha => ?_, hfail⟩
  rcases Bool.or_eq_true_iff.1 ha with ha | hr
  · exact hany ha
  · cases r with
    | ok => cases hr
    | fail => exact hfail hpending

/-- A call issued leaves the records in agreement. -/
theorem recordsOk_of_call {u : State} (h : s.recordsOk = true) (hb : u.busErr = s.busErr) (he : u.errCount = s.errCount)
    (hr : u.reqErr = s.reqErr) (hl : u.lastCause = s.lastCause) (ha : u.anyFail = s.anyFail)
    (hp : u.pending ≠ .busDone .fail) : u.recordsOk = true :=
  recordsOk_of_same h hb he hr hl (fun h' => busErr_of_anyFail h (ha ▸ h')) hp

theorem completeInit_recordsOk (h : s.recordsOk = true) : (completeInit s).recordsOk = true := by
  refine respond_recordsOk (s := { s with initStep := 0#4, phase := .ready }) h fun hc => ?_
  cases ha : s.anyFail with
  | true => exact busErr_of_anyFail (s := s) h ha
  | false => simp [ha] at hc

/-- The arrival of the transport's answer leaves a legal state legal. -/
theorem busAnswered_inv {a : BusAnswer} (hinv : s.Inv = true) (hpending : s.pending = .busTx) :
    (busAnswered a s).Inv = true := by
  have hbusy : (busAnswered a s).busy = true := (busAnswered_busy a s).trans (busy_of_pending hinv (by simp [hpending]))
  have hrec := busAnswered_recordsOk (a := a) (recordsOk_of_inv hinv)
  rcases busy_cases hinv (busy_of_pending hinv (by simp [hpending])) with ⟨hp, _⟩ | ⟨rs, b, hword, hphase, _⟩ |
    ⟨hword, hphase, hcall⟩
  · simp [hpending] at hp
  · exact inv_of_sendByte hbusy (by simpa using hword) (by simpa using hphase)
      (by simpa using initStep_eq_zero hinv (by simp [hphase])) (sendByteCallOk_iff.2 (.inr ⟨_, busAnswered_pending a s⟩)) hrec
  · refine inv_of_init hbusy (by simpa using hword) (by simpa using hphase) (initCallOk_iff.2 (.inr ?_)) hrec
    rcases initCallOk_iff.1 hcall with ⟨n, _, hp⟩ | ⟨b, n, hk, _⟩
    · simp [hpending] at hp
    · exact ⟨b, n, by simpa using hk, .inr (.inl ⟨_, busAnswered_pending a s⟩)⟩

/-- The arrival of the timing source's answer leaves a legal state legal. -/
theorem delayAnswered_inv {n : Nat} (hinv : s.Inv = true) (hpending : s.pending = .delay n) :
    (delayAnswered s).Inv = true := by
  have hbusy := busy_of_pending hinv (by simp [hpending])
  have hrec : (delayAnswered s).recordsOk = true := recordsOk_of_call (recordsOk_of_inv hinv) rfl rfl rfl rfl rfl (by simp)
  rcases busy_cases hinv hbusy with ⟨hp, _⟩ | ⟨rs, b, _, _, hcall⟩ | ⟨hword, hphase, hcall⟩
  · simp [hpending] at hp
  · have := sendByteCallOk_iff.1 hcall
    simp [hpending] at this
  · refine inv_of_init hbusy hword hphase (initCallOk_iff.2 ?_) hrec
    rcases initCallOk_iff.1 hcall with ⟨n, hk, _⟩ | ⟨b, n, hk, hp⟩
    · exact .inl ⟨n, hk, .inr rfl⟩
    · obtain ⟨hn, _⟩ : n ≠ 0 ∧ s.pending = .delay n := by simpa [hpending] using hp
      exact .inr ⟨b, n, hk, .inr (.inr ⟨hn, .inr rfl⟩)⟩

/-- A reset leads to a legal state, from any state. -/
theorem takeReset_inv (k : Fin 5) (s : State) : (takeReset k s).Inv = true :=
  inv_of_idle rfl rfl (by simp) rfl (recordsOk_iff.2 (by simp [refusesRequest]))

theorem arrival_inv (hinv : s.Inv = true) (h : Arrival s t) : t.Inv = true := by
  cases h with
  | waits => exact hinv
  | busAnswers a rest hpending => exact busAnswered_inv (s := { s with agenda := rest }) hinv hpending
  | delayAnswers rest hpending => exact delayAnswered_inv (s := { s with agenda := rest }) hinv hpending
  | resets k rest => exact takeReset_inv k _

/-- An acceptance leads an idle legal state to a legal one: an INIT in UNINIT to step 1 of the sequence, any other word to where
it was. -/
theorem accept_inv {w : Word} (hinv : s.Inv = true) (hbusy : s.busy = false) : (accept w s).Inv = true := by
  obtain ⟨hidle, hstep, _, hrec⟩ := inv_iff.1 hinv
  obtain ⟨_, hphase⟩ := idleOk_iff.1 hidle hbusy
  have hrec' : (accept w s).recordsOk = true :=
    recordsOk_of_same hrec (accept_busErr ..) (accept_errCount ..) (accept_reqErr ..) (accept_lastCause ..)
      (fun ha => busErr_of_anyFail hrec (by simp at ha; exact ha.2)) (by simp)
  refine inv_of_accepted (accept_busy ..) (accept_pending ..) ?_ ?_ hrec'
  · cases hs : startsSequence w s.phase with
    | true => exact initStepOk_of_step (i := .waitOnly 50) (by simp [hs]) (by simp [hs, initTable])
    | false => exact initStepOk_of_ne (by simpa [hs] using hphase) (by simpa [hs] using initStep_eq_zero hinv hphase)
  · unfold State.acceptedOk
    rw [accept_cur]
    split <;> rename_i hword <;> rw [decide_eq_true_eq]
    · cases hp : s.phase with
      | uninit => exact .inr (by simp [startsSequence, hword, hp])
      | initializing => exact absurd hp hphase
      | ready => exact .inl (by simp [startsSequence, hword, hp])
    · simpa [startsSequence, hword] using hphase
    · simpa [startsSequence, hword] using hphase

theorem legalMove_inv (hinv : s.Inv = true) (hbusy : s.busy = true) (h : LegalMove s t) : t.Inv = true := by
  have hrec := recordsOk_of_inv hinv
  have hoff := initStep_eq_zero hinv
  cases h with
  | refuses hc hpending hphase =>
    exact inv_of_idle rfl rfl hphase (hoff hphase)
      (respond_recordsOk hrec fun h => by simp [h, refusesRequest] at hc)
  | sends hword hpending hphase =>
    exact inv_of_sendByte hbusy hword hphase (hoff (by simp [hphase]))
      (sendByteCallOk_iff.2 (.inl ⟨rfl, rfl⟩)) (recordsOk_of_call hrec rfl rfl rfl rfl rfl (by simp))
  | @answers rs b r hword hpending hphase =>
    have hready : s.phase ≠ .initializing := by simp [hphase]
    refine inv_of_idle rfl rfl hready (hoff hready) (respond_recordsOk hrec fun hc => ?_)
    cases r with
    | ok => cases hc
    | fail => exact busErr_of_fail hrec hpending
  | begins hword hpending hphase hk =>
    exact inv_of_init hbusy hword hphase (initCallOk_iff.2 (.inl ⟨50, by simp [hk, initTable], .inl rfl⟩))
      (recordsOk_of_call hrec rfl rfl rfl rfl rfl (by simp))
  | waits hword hpending hphase hstep hn =>
    exact inv_of_init hbusy hword hphase (initCallOk_iff.2 (.inr ⟨_, _, hstep, .inr (.inr ⟨hn, .inl rfl⟩)⟩))
      (recordsOk_of_call (noteFailure_recordsOk hrec hpending) rfl rfl rfl rfl rfl (by simp))
  | advances hword hpending hphase hlast hstep ha =>
    exact inv_of_init hbusy hword rfl (initCallOk_iff.2 (.inr ⟨_, _, hstep, .inl ⟨rfl, rfl⟩⟩))
      (recordsOk_of_same hrec rfl rfl rfl rfl (fun h => (ha h).elim (busErr_of_anyFail hrec) (busErr_of_fail hrec)) (by simp))
  | completes hword hpending hphase hlast =>
    exact inv_of_idle rfl rfl (by simp) rfl (completeInit_recordsOk (noteFailure_recordsOk hrec hpending))

theorem step_inv (hinv : s.Inv = true) (h : step s = .next t) : t.Inv = true := by
  cases legal_step hinv h with
  | arrives h => exact arrival_inv hinv h
  | moves _ hbusy h => exact legalMove_inv (s := passMoment s) hinv hbusy h
  | accepts w ws hbusy => exact accept_inv (s := { passMoment s with port := ws }) hinv hbusy

/-- Settles O41: `step_inv`, for the next input, a move of the request in progress, and an acceptance. -/
theorem stepKeepsStatesLegal : Obligations.StepKeepsStatesLegal := fun _ _ => step_inv

/-- Settles O45: a reset leads to UNINIT, the acceptance of an INIT in UNINIT to INITIALIZING, the completion to READY; no
other step writes `phase`. -/
theorem onlyListedPhaseChanges : Obligations.OnlyListedPhaseChanges := by
  intro s t hinv h
  cases legal_step hinv h with
  | arrives h =>
    cases h with
    | resets k rest hreset => exact .inr (.inr (.inr ⟨rfl, hreset⟩))
    | waits | busAnswers | delayAnswers => exact .inl (by simp)
  | moves _ _ h =>
    cases h with
    | completes hword hpending hphase hlast => exact .inr (.inr (.inl ⟨hphase, rfl, hlast, _, hpending⟩))
    | advances hword hpending hphase => exact .inl hphase.symm
    | refuses | sends | answers | begins | waits => exact .inl rfl
  | accepts w ws hbusy =>
    cases hs : startsSequence w s.phase with
    | true =>
      obtain ⟨rfl, hphase⟩ := (startsSequence_iff w s.phase).1 hs
      exact .inr (.inl ⟨hphase, by simp [hs], hbusy, accept_cur .., accept_log ..⟩)
    | false => exact .inl (by simp [hs])

/-- 41_init_sequencer.md R132: the number of the next step. -/
theorem initStep_succ_toNat {k : BitVec 4} {i : InitStep} (hstep : initTable (k + 1#4) = some i) :
    (k + 1#4).toNat = k.toNat + 1 ∧ (k + 1#4).toNat ≤ 10 := by
  have hk := initTable_some hstep
  simp only [BitVec.toNat_add, BitVec.toNat_ofNat] at hk ⊢
  omega

/-- Settles O46: the sequence advances by one up to 10, the acceptance of an INIT takes `init_step` from 0 to 1, the completion
from 10 to 0; without a reset no other step writes it. -/
theorem initStepAdvancesByOne : Obligations.InitStepAdvancesByOne := by
  intro s t hinv hreset h
  cases legal_step hinv h with
  | arrives h =>
    cases h with
    | resets k rest hdue => simp [hreset] at hdue
    | waits | busAnswers | delayAnswers => exact .inl (by simp)
  | moves _ _ h =>
    cases h with
    | completes hword hpending hphase hlast => exact .inr (.inr ⟨hlast, rfl, rfl⟩)
    | advances hword hpending hphase hlast hstep =>
      obtain ⟨hsucc, hle⟩ := initStep_succ_toNat hstep
      exact .inr (.inl ⟨hsucc, hle, rfl⟩)
    | refuses | sends | answers | begins | waits => exact .inl rfl
  | accepts w ws hbusy =>
    cases hs : startsSequence w s.phase with
    | true =>
      obtain ⟨_, hphase⟩ := (startsSequence_iff w s.phase).1 hs
      have hk := initStep_eq_zero hinv (by simp [hphase])
      exact .inr (.inl (by simp [hs, hk]))
    | false => exact .inl (by simp [hs])

end Sys2Proof.Machine
end

section
/-! PROOFS. The display controller's nibble pairing over one step (70_reset_and_hazards.md R216, R220; log 22, 23). -/

namespace Sys2Proof.Machine

variable {s t : State} {p : Pairing}

/-- 70_reset_and_hazards.md R220, log 23: a whole frame leaves the pairing as it was. -/
theorem Pairing.after_frame (p : Pairing) (b : Byte) (rs : Bool) : p.after (frameBytes (frameOf b rs)) = p := by
  have hwhole : pairingAfter (frameBytes (frameOf b rs)) = .intact := pairingAfter_take_frame b rs 4
  cases p <;> simp [Pairing.after, hwhole]

/-- Settles O59: the frame in flight is that of some payload (`frameBuf_of_busTx`), so the bytes which the answer or the reset
logs are its first `k` (`pairingAfter_take_frame`) or all of it (`Pairing.after_frame`). -/
theorem cutFrameMovesThePairing : Obligations.CutFrameMovesThePairing := by
  intro p s rest hinv hpending
  obtain ⟨b, rs, hframe⟩ := frameBuf_of_busTx hinv hpending
  refine ⟨fun k hagenda hintact => ?_, fun hagenda => ?_⟩
  · rw [State.pairing] at hintact
    rcases hagenda with hagenda | hagenda
    · refine ⟨_, step_eq_busAnswered hpending hagenda, ?_⟩
      rw [pairing_of_log p (busAnswered_log ..)]
      simp only [displayAfter, hintact, Pairing.after, deliveredBytes, hframe, pairingAfter_take_frame]
    · refine ⟨_, step_eq_takeReset hagenda, ?_⟩
      rw [pairing_of_log p (takeReset_log ..)]
      simp only [displayAfter, hintact, Pairing.after, abandonedBytes, hpending, hframe, pairingAfter_take_frame]
  · refine ⟨_, step_eq_busAnswered hpending hagenda, ?_⟩
    rw [pairing_of_log p (busAnswered_log ..)]
    simp only [displayAfter, deliveredBytes, hframe, Pairing.after_frame, State.pairing]

/-- Log 23: from a log that names its request, the one event that brings a controller back is the response 0 of an INIT in
progress. -/
theorem pairing_recovers_iff {e : Event} (hnames : s.NamesItsRequest) (hout : s.pairing p ≠ .intact)
    (hlog : t.log = s.log ++ [e]) :
    t.pairing p = .intact ↔ e = .response .ok ∧ s.busy = true ∧ s.cur = encode .init := by
  have hrun : (displayOf p s.log).running = some (encode .init) ↔ s.busy = true ∧ s.cur = encode .init := by
    rw [displayOf_running, hnames]
    simp
  rw [pairing_of_log p hlog, ← hrun]
  refine ⟨displayAfter_recovers hout, ?_⟩
  rintro ⟨rfl, hinit⟩
  simp only [displayAfter, hinit, if_true]

/-- 70_reset_and_hazards.md R220, log 23: a step brings a controller back exactly as it completes an INIT with code 0. -/
theorem pairing_recovers_iff_completes (hinv : s.Inv = true) (hnames : s.NamesItsRequest) (h : step s = .next t)
    (hout : s.pairing p ≠ .intact) :
    t.pairing p = .intact ↔ s.phase = .initializing ∧ t.phase = .ready ∧ t.lastCause = .ok := by
  have of_event {u : State} {e : Event} (hlog : u.log = s.log ++ [e]) (he : e ≠ .response .ok)
      (hphase : ¬ (s.phase = .initializing ∧ u.phase = .ready)) :
      u.pairing p = .intact ↔ s.phase = .initializing ∧ u.phase = .ready ∧ u.lastCause = .ok :=
    iff_of_false (fun hu => he ((pairing_recovers_iff hnames hout hlog).1 hu).1) fun ⟨h1, h2, _⟩ => hphase ⟨h1, h2⟩
  cases legal_step hinv h with
  | arrives h =>
    cases h with
    | waits => exact iff_of_false hout fun ⟨h1, h2, _⟩ => by simp [h1] at h2
    | busAnswers => exact of_event (busAnswered_log ..) nofun fun ⟨h1, h2⟩ => by simp [h1] at h2
    | delayAnswers => exact of_event (delayAnswered_log ..) nofun fun ⟨h1, h2⟩ => by simp [h1] at h2
    | resets => exact of_event (takeReset_log ..) nofun fun ⟨_, h2⟩ => by simp at h2
  | moves _ hbusy h =>
    cases h with
    | refuses hc hpending hphase =>
      exact of_event (respond_log ..) (by rintro ⟨⟩; cases hc) fun ⟨h1, _⟩ => hphase h1
    | sends => exact of_event (sendFrame_log ..) nofun fun ⟨h1, h2⟩ => by simp [h1] at h2
    | answers hword hpending hphase =>
      refine iff_of_false (fun hu => ?_) fun ⟨h1, _⟩ => by simp [h1] at hphase
      obtain ⟨_, _, hcur⟩ := (pairing_recovers_iff hnames hout (respond_log ..)).1 hu
      rw [passMoment_cur, hcur, decode_encode] at hword
      cases hword
    | begins => exact of_event (issueDelay_log ..) nofun fun ⟨h1, h2⟩ => by simp [h1] at h2
    | waits => exact of_event (issueDelay_log ..) nofun fun ⟨h1, h2⟩ => by simp [h1] at h2
    | advances => exact of_event (sendFrame_log ..) nofun fun ⟨_, h2⟩ => by simp at h2
    | @completes r hword hpending hphase hlast =>
      have hcur : s.cur = encode .init := (encode_of_decode hword).symm
      have hlog := completeInit_log (noteFailure r (passMoment s))
      rw [pairing_recovers_iff hnames hout hlog, completeInit_lastCause, Event.response.injEq]
      exact ⟨fun ⟨hok, _⟩ => ⟨hphase, rfl, hok⟩, fun ⟨_, _, hok⟩ => ⟨hok, hbusy, hcur⟩⟩
  | accepts w ws hbusy =>
    obtain ⟨hidle, _⟩ := inv_iff.1 hinv
    obtain ⟨_, hphase⟩ := idleOk_iff.1 hidle hbusy
    exact of_event (accept_log ..) nofun fun ⟨h1, _⟩ => hphase h1

/-- Settles O60: `pairing_recovers_iff_completes`; of the listed phase changes only a reset leads out of READY. -/
theorem onlyResetAndInitRecoverThePairing : Obligations.OnlyResetAndInitRecoverThePairing := by
  intro p s t hinv hnames h hout
  have hrecovers := pairing_recovers_iff_completes hinv hnames h hout
  refine ⟨hrecovers, fun hready hreset => ⟨?_, fun hin => ?_⟩⟩
  · rcases onlyListedPhaseChanges s t hinv h with hsame | ⟨hphase, _⟩ | ⟨hphase, _⟩ | ⟨_, hdue⟩
    · exact hsame.trans hready
    · simp [hready] at hphase
    · simp [hready] at hphase
    · simp [hreset] at hdue
  · obtain ⟨hphase, _⟩ := hrecovers.1 hin
    simp [hready] at hphase

end Sys2Proof.Machine
end

section
/-! PROOFS. Open loop (40_frame_encoder.md R107, 41_init_sequencer.md R145, 10_state.md R39): each operation, seen without the
transport's answers, is the operation on the state seen without them. -/

namespace Sys2Proof.Machine

variable {s : State}

@[simp] theorem Response.blind_blind (c : Response) : c.blind.blind = c.blind := by cases c <;> rfl
@[simp] theorem Event.blind_blind (e : Event) : e.blind.blind = e.blind := by
  cases e with
  | response c => exact congrArg Event.response c.blind_blind
  | _ => rfl
@[simp] theorem Input.blind_blind (i : Input) : i.blind.blind = i.blind := by cases i <;> rfl
@[simp] theorem Pending.blind_blind (p : Pending) : p.blind.blind = p.blind := by cases p <;> rfl

@[simp] theorem State.blind_blind (s : State) : s.blind.blind = s.blind := by
  simp [State.blind, Function.comp_def]

theorem refusesRequest_blind (c : Response) : refusesRequest c.blind = refusesRequest c := by cases c <;> rfl

theorem transactionResponse_blind (r : BusResult) : (transactionResponse r).blind = .ok := by cases r <;> rfl

theorem logged_blind (e : Event) (s : State) : (logged e s).blind = logged e.blind s.blind := by
  simp [State.blind, logged]

theorem respond_blind (c : Response) (s : State) : (respond c s).blind = respond c.blind s.blind := by
  rw [respond, logged_blind, respond, refusesRequest_blind]
  rfl

theorem sendFrame_blind (b : Byte) (rs : Bool) (s : State) : (sendFrame b rs s).blind = sendFrame b rs s.blind :=
  logged_blind ..

theorem issueDelay_blind (n : Nat) (s : State) : (issueDelay n s).blind = issueDelay n s.blind := logged_blind ..

theorem accept_blind (w : Word) (s : State) : (accept w s).blind = accept w s.blind := by
  rw [accept, logged_blind, accept, enter, enter]
  congr 1
  split <;> split <;> simp_all [State.blind, enterSequence, Pending.blind]

/-- An answer's bytes and result, and the record of a failure, are what is left out. -/
theorem busAnswered_blind (a : BusAnswer) (s : State) :
    (busAnswered a s).blind = releaseFrame (logged (.busAnswer .ok []) { s.blind with pending := .busDone .ok }) := by
  cases a with
  | ok => exact congrArg releaseFrame (logged_blind ..)
  | fail k =>
    exact congrArg releaseFrame
      (logged_blind (.busAnswer .fail ((frameBytes s.frameBuf).take k.val)) { s with pending := .busDone .fail })

/-- Whatever the transport answers, seen without it the answer is Ok. -/
theorem busAnswered_blind_eq_ok (a : BusAnswer) (s : State) :
    (busAnswered a s).blind = (busAnswered .ok s.blind).blind := by
  rw [busAnswered_blind, busAnswered_blind, State.blind_blind]

theorem delayAnswered_blind (s : State) : (delayAnswered s).blind = delayAnswered s.blind := logged_blind ..

@[simp] theorem reset_blind (bytes : List Byte) : (Event.reset bytes).blind = .reset [] := rfl

/-- The bytes of an abandoned frame are what is left out of a reset. -/
theorem takeReset_blind (k k' : Fin 5) (s : State) : (takeReset k s).blind = (takeReset k' s.blind).blind := by
  simp [State.blind, takeReset, Function.comp_def]

/-- The words at the port have nothing to leave out. -/
theorem withPort_blind (ws : List Word) (s : State) :
    State.blind { s with port := ws } = State.blind { s.blind with port := ws } := by
  simp [State.blind, Function.comp_def]

theorem passMoment_blind (s : State) : (passMoment s).blind = passMoment s.blind := by
  simp [State.blind, passMoment]

theorem completeInit_blind (s : State) : (completeInit s).blind = completeInit s.blind := by
  rw [completeInit, respond_blind]
  cases s.anyFail <;> rfl

theorem beginInitStep_blind (k : BitVec 4) (s : State) : blindOutcome (beginInitStep k s) = beginInitStep k s.blind := by
  unfold beginInitStep
  split
  · exact congrArg _ (issueDelay_blind ..)
  · exact congrArg _ (sendFrame_blind ..)
  · rfl

theorem finishInitStep_blind (s : State) : blindOutcome (finishInitStep s) = finishInitStep s.blind := by
  by_cases hlast : s.initStep = 10#4
  · rw [finishInitStep_of_last hlast, finishInitStep_of_last (s := s.blind) hlast]
    exact congrArg _ (completeInit_blind s)
  · have hlast' : s.blind.initStep ≠ 10#4 := hlast
    rw [finishInitStep, if_neg hlast, finishInitStep, if_neg hlast']
    exact beginInitStep_blind ..

/-- Noting no failure in a state seen without failures changes nothing. -/
theorem noteFailure_ok_blind (r : BusResult) (s : State) : (noteFailure r s).blind = noteFailure .ok s.blind := rfl

theorem afterInitSend_blind (r : BusResult) (s : State) : blindOutcome (afterInitSend r s) = afterInitSend .ok s.blind := by
  have hstep : s.blind.initStep = s.initStep := rfl
  rw [afterInitSend, afterInitSend, hstep]
  split
  · split
    · rw [finishInitStep_blind, noteFailure_ok_blind]
    · exact congrArg _ ((issueDelay_blind ..).trans (congrArg _ (noteFailure_ok_blind r s)))
  · rfl
  · rfl

theorem execInit_blind (s : State) : blindOutcome (execInit s) = execInit s.blind := by
  have hphase : s.blind.phase = s.phase := rfl
  have hpending : s.blind.pending = s.pending.blind := rfl
  rw [execInit, execInit, hpending, hphase]
  cases s.pending with
  | none =>
    simp only [Pending.blind]
    split
    · exact congrArg _ (respond_blind ..)
    · exact beginInitStep_blind ..
  | busDone r => exact afterInitSend_blind r s
  | delayDone => exact finishInitStep_blind s
  | busTx => rfl
  | delay n => rfl

theorem execSendByte_blind (rs : Bool) (b : Byte) (s : State) :
    blindOutcome (execSendByte rs b s) = execSendByte rs b s.blind := by
  have hphase : s.blind.phase = s.phase := rfl
  have hpending : s.blind.pending = s.pending.blind := rfl
  rw [execSendByte, execSendByte, hpending, hphase]
  cases s.pending with
  | none =>
    simp only [Pending.blind]
    split
    · exact congrArg _ (respond_blind ..)
    · exact congrArg _ (sendFrame_blind ..)
  | busDone r =>
    refine congrArg _ ((respond_blind ..).trans ?_)
    rw [transactionResponse_blind]
    rfl
  | delayDone => rfl
  | busTx => rfl
  | delay n => rfl

theorem execute_blind (w : Word) (s : State) : blindOutcome (execute w s) = execute w s.blind := by
  cases hword : decode w with
  | error why =>
    rw [execute_of_decode_error hword, execute_of_decode_error hword]
    exact congrArg _ (respond_blind ..)
  | ok i =>
    rw [execute_of_decode_ok hword, execute_of_decode_ok hword]
    cases i with
    | sendByte rs b => exact execSendByte_blind rs b s
    | init => exact execInit_blind s

theorem ownMove_blind (s : State) : blindOutcome (ownMove s) = ownMove s.blind := by
  have hbusy : s.blind.busy = s.busy := rfl
  have hpending : awaiting s.blind.pending = awaiting s.pending := awaiting_blind s.pending
  have hport : s.blind.port = s.port := rfl
  rw [ownMove, ownMove, hbusy, hpending, hport]
  split
  · split
    · rfl
    · exact execute_blind ..
  · split
    · exact congrArg _ (accept_blind ..)
    · rfl

theorem blockTurn_blind (s : State) : blockTurn s.blind = blockTurn s := by
  have hagenda : s.blind.agenda = s.agenda.map Input.blind := rfl
  rw [blockTurn, blockTurn, hagenda]
  rcases s.agenda with _ | ⟨i, rest⟩
  · rfl
  · cases i <;> rfl

theorem takeInput_blind (i : Input) (s : State) : (takeInput i s).blind = (takeInput i.blind s.blind).blind := by
  have hpending : s.blind.pending = s.pending.blind := rfl
  cases i with
  | submit w => exact withPort_blind ..
  | withdraw => exact withPort_blind ..
  | answer a =>
    rw [takeInput, Input.blind, takeInput, hpending]
    cases s.pending with
    | busTx => exact busAnswered_blind_eq_ok a s
    | _ => exact (State.blind_blind s).symm
  | elapsed =>
    rw [takeInput, Input.blind, takeInput, hpending]
    cases s.pending with
    | delay n => exact ((State.blind_blind _).symm.trans (congrArg State.blind (delayAnswered_blind s)))
    | _ => exact (State.blind_blind s).symm
  | lateAnswer a => exact (State.blind_blind s).symm
  | reset k => exact takeReset_blind ..
  | quiet => exact (State.blind_blind s).symm

theorem arrive_blind (s : State) : (arrive s).blind = (arrive s.blind).blind := by
  have hagenda : s.blind.agenda = s.agenda.map Input.blind := rfl
  rw [arrive, arrive, hagenda]
  rcases s.agenda with _ | ⟨i, rest⟩
  · exact (State.blind_blind s).symm
  · exact takeInput_blind i { s with agenda := rest }

/-- A step seen without the transport's answers is determined by the state seen without them. -/
theorem step_blind (s : State) : blindOutcome (step s) = blindOutcome (step s.blind) := by
  rw [step, advance, step, advance, blockTurn_blind]
  split
  · rw [ownMove_blind, ownMove_blind, passMoment_blind, passMoment_blind, State.blind_blind]
  · exact congrArg Host.Outcome.next (arrive_blind s)

/-- Settles O49: both steps are determined by the same state (`step_blind`). -/
theorem answersNeverChangeTheCourse : Obligations.AnswersNeverChangeTheCourse := by
  intro s t hblind
  rw [step_blind s, hblind, ← step_blind t]

end Sys2Proof.Machine
end

section
/-! PROOFS. The run of an accepted SENDBYTE (40_frame_encoder.md R105 to R107). -/

namespace Sys2Proof.Machine

variable {s t u : State} {rest : List Input}

/-- Two steps make a run. -/
theorem run_two (h : step s = .next t) (h' : step t = .next u) : Host.Core.run core 2 s = .next u := by
  rw [run_succ 1 h, run_succ 0 h', run_zero]

/-- A run goes on where another ended. -/
theorem run_trans {m n : Nat} (h : Host.Core.run core m s = .next t) (h' : Host.Core.run core n t = .next u) :
    Host.Core.run core (m + n) s = .next u := by
  induction m generalizing s with
  | zero =>
    rw [run_zero] at h
    cases h
    rwa [Nat.zero_add]
  | succ m ih =>
    cases hstep : step s with
    | next v =>
      rw [run_succ m hstep] at h
      rw [Nat.succ_add, run_succ (m + n) hstep, ih h]
    | fault r => simp [Host.Core.run, core, hstep] at h
    | refused r => simp [Host.Core.run, core, hstep] at h

/-- At the block's moment the request in `cur`, waiting for no answer, makes its next move. -/
theorem step_eq_exec {i : Instr} (hagenda : s.agenda = .quiet :: rest) (hbusy : s.busy = true)
    (hpending : awaiting s.pending = false) (hcur : s.cur = encode i) : step s = exec i (passMoment s) := by
  rw [step_eq_execute (blockTurn_of_quiet hagenda) hbusy hpending, hcur, execute_of_decode_ok (decode_encode i)]

/-- Settles O15: the frame is sent, the transport answers, and the answered SENDBYTE responds; the records of a failure are
those of its one answer. -/
theorem sendByteRunsToItsResponse : Obligations.SendByteRunsToItsResponse := by
  intro rs b a s rest hbusy hphase hpending hcur hagenda
  have hanswer : step (sendFrame b rs s) = .next (busAnswered a { sendFrame b rs s with agenda := .quiet :: rest }) :=
    step_eq_busAnswered rfl hagenda
  have hresponse := step_eq_exec (s := busAnswered a { sendFrame b rs s with agenda := .quiet :: rest }) (rest := rest)
    (busAnswered_agenda ..) (by simpa using hbusy) (by simp [awaiting]) (by simpa using hcur)
  rw [exec_sendByte_of_busDone (r := answerResult a) (by simp)] at hresponse
  refine ⟨_, _, exec_sendByte_of_ready hphase hpending rs b, run_two hanswer hresponse, ?_, ?_,
    busAnswered_errCount_toNat a _, busAnswered_busErr_eq a _, ?_⟩
  · simp [txEvents, transactionResponse_eq]
  · exact transactionResponse_eq _
  · simp [refusesRequest_transactionResponse, hphase]

end Sys2Proof.Machine
end

section
/-! PROOFS. The whole trace of an INIT (41_init_sequencer.md R148), one init step at a time. -/

namespace Sys2Proof.Machine

variable {s₀ s u v : State} {k : BitVec 4} {events : List Event} {answers : List BusAnswer} {script rest : List Input}
  {a : BusAnswer} {b : Byte} {n : Nat}

theorem failures_append (l : List BusAnswer) (a : BusAnswer) : failures (l ++ [a]) = failures l + failures [a] := by
  induction l with
  | nil => rw [failures, Nat.zero_add, List.nil_append]
  | cons x l ih =>
    cases x with
    | ok => exact ih
    | fail k => simp only [List.cons_append, failures] at ih ⊢; omega

/-- The inputs of `script`, each followed by a moment of the block. -/
def answerAgenda (script rest : List Input) : List Input := (script.flatMap fun i => [i, .quiet]) ++ rest

/-- A block in step `k` of the sequence that began at `s₀`, with no call unanswered: `events` were logged since then, and
`answers`, the transport's, are recorded and noted in `any_fail`. What is in flight is left open. -/
structure InSequence (s₀ s : State) (k : BitVec 4) (events : List Event) (answers : List BusAnswer)
    (script rest : List Input) : Prop where
  phase : s.phase = .initializing
  initStep : s.initStep = k
  busy : s.busy = true
  cur : s.cur = encode .init
  anyFail : s.anyFail = decide (failures answers ≠ 0)
  errCount : s.errCount.toNat = min (s₀.errCount.toNat + failures answers) 0xFFFF
  busErr : s.busErr = (s₀.busErr || decide (failures answers ≠ 0))
  reqErr : s.reqErr = s₀.reqErr
  port : s.port = s₀.port
  log : s.log = s₀.log ++ events
  agenda : s.agenda = answerAgenda script rest

/-- The move of an INIT after its delay. -/
theorem step_eq_finishInitStep (hagenda : s.agenda = .quiet :: rest) (hbusy : s.busy = true) (hcur : s.cur = encode .init)
    (hpending : s.pending = .delayDone) : step s = finishInitStep (passMoment s) := by
  rw [step_eq_exec hagenda hbusy (by simp [hpending, awaiting]) hcur]
  exact exec_init_of_delayDone hpending

/-- The move of an INIT after its transaction. -/
theorem step_eq_afterInitSend {r : BusResult} (hagenda : s.agenda = .quiet :: rest) (hbusy : s.busy = true)
    (hcur : s.cur = encode .init) (hpending : s.pending = .busDone r) : step s = afterInitSend r (passMoment s) := by
  rw [step_eq_exec hagenda hbusy (by simp [hpending, awaiting]) hcur]
  exact exec_init_of_busDone hpending

/-- The answer to the step's delay, and the move after it. -/
theorem InSequence.delay_answered (h : InSequence s₀ u k events answers (.elapsed :: script) rest) (n : Nat) :
    ∃ m, step (issueDelay n u) = .next m ∧ step m = finishInitStep (passMoment m) ∧
      InSequence s₀ (passMoment m) k (events ++ delayEvents n) answers script rest := by
  have hlog : u.log ++ [.delay n] ++ [.delayAnswer] = s₀.log ++ (events ++ delayEvents n) := by simp [h.log, delayEvents]
  exact ⟨_, step_eq_delayAnswered (rest := .quiet :: answerAgenda script rest) rfl h.agenda,
    step_eq_finishInitStep rfl h.busy h.cur rfl, { h with log := hlog, agenda := rfl }⟩

/-- The answer to the step's transaction, and the move after it. -/
theorem InSequence.bus_answered (h : InSequence s₀ u k events answers (.answer a :: script) rest) (b : Byte) :
    ∃ m, step (sendFrame b false u) = .next m ∧ step m = afterInitSend (answerResult a) (passMoment m) ∧
      InSequence s₀ (noteFailure (answerResult a) (passMoment m)) k (events ++ txEvents (frameOf b false) a)
        (answers ++ [a]) script rest := by
  refine ⟨_, step_eq_busAnswered (rest := .quiet :: answerAgenda script rest) rfl h.agenda,
    step_eq_afterInitSend (busAnswered_agenda ..) (by simpa using h.busy) (by simpa using h.cur) (busAnswered_pending ..), ?_⟩
  have hfails := failures_append answers a
  have hany : (decide (failures answers ≠ 0) || decide (failures [a] ≠ 0)) = decide (failures (answers ++ [a]) ≠ 0) := by
    rw [hfails]
    simp [Nat.add_eq_zero_iff]
  have hfail : isFailure (answerResult a) = decide (failures [a] ≠ 0) := by cases a <;> rfl
  constructor
  case errCount =>
    refine (busAnswered_errCount_toNat a _).trans ?_
    simp only [sendFrame_errCount, h.errCount, hfails]
    omega
  case busErr => simp only [noteFailure_busErr, passMoment_busErr, busAnswered_busErr, sendFrame_busErr, h.busErr, hfail,
    Bool.or_assoc, hany]
  case anyFail => simp only [noteFailure_anyFail, passMoment_anyFail, busAnswered_anyFail, sendFrame_anyFail, h.anyFail,
    hfail, hany]
  all_goals simp [h.phase, h.initStep, h.busy, h.cur, h.reqErr, h.port, h.log, txEvents]

/-- After the last call of a step before the last, the next step sends its frame. -/
theorem InSequence.next_step (h : InSequence s₀ v k events answers script rest) (hlast : k ≠ 10#4)
    (hstep : initTable (k + 1#4) = some (.send b n)) :
    ∃ u, finishInitStep v = .next (sendFrame b false u) ∧ InSequence s₀ u (k + 1#4) events answers script rest := by
  obtain rfl := h.initStep
  exact ⟨_, finishInitStep_of_next hlast hstep, { h with initStep := rfl }⟩

/-- 41_init_sequencer.md R133: from step 1's wait to the frame of step 2. -/
theorem InSequence.run_wait (h : InSequence s₀ u k events answers (.elapsed :: script) rest) (n : Nat)
    (hlast : k ≠ 10#4) {m : Nat} (hstep : initTable (k + 1#4) = some (.send b m)) :
    ∃ v, Host.Core.run core 2 (issueDelay n u) = .next (sendFrame b false v) ∧
      InSequence s₀ v (k + 1#4) (events ++ delayEvents n) answers script rest := by
  obtain ⟨m, hanswer, hmove, h⟩ := h.delay_answered n
  obtain ⟨v, hnext, h⟩ := h.next_step hlast hstep
  exact ⟨v, run_two hanswer (hmove.trans hnext), h⟩

/-- 41_init_sequencer.md R138, R139, R141: from the frame of a step that does not wait to the frame of the next one. -/
theorem InSequence.run_send (h : InSequence s₀ u k events answers (.answer a :: script) rest) (hlast : k ≠ 10#4)
    {b' : Byte} (hk : initTable k = some (.send b 0)) (hstep : initTable (k + 1#4) = some (.send b' n)) :
    ∃ v, Host.Core.run core 2 (sendFrame b false u) = .next (sendFrame b' false v) ∧
      InSequence s₀ v (k + 1#4) (events ++ txEvents (frameOf b false) a) (answers ++ [a]) script rest := by
  obtain ⟨m, hanswer, hmove, h⟩ := h.bus_answered b
  obtain ⟨v, hnext, h'⟩ := h.next_step hlast hstep
  rw [afterInitSend_of_no_wait (b := b) (h.initStep ▸ hk)] at hmove
  exact ⟨v, run_two hanswer (hmove.trans hnext), h'⟩

/-- 41_init_sequencer.md R134 to R137, R140: from the frame of a step that waits to the frame of the next one. -/
theorem InSequence.run_send_wait (h : InSequence s₀ u k events answers (.answer a :: .elapsed :: script) rest)
    {b' : Byte} {n' : Nat} (hk : initTable k = some (.send b n)) (hn : n ≠ 0)
    (hstep : initTable (k + 1#4) = some (.send b' n')) :
    ∃ v, Host.Core.run core 4 (sendFrame b false u) = .next (sendFrame b' false v) ∧
      InSequence s₀ v (k + 1#4) (events ++ txEvents (frameOf b false) a ++ delayEvents n) (answers ++ [a]) script rest := by
  obtain ⟨m, hanswer, hmove, h⟩ := h.bus_answered b
  rw [afterInitSend_of_wait (h.initStep ▸ hk) hn] at hmove
  obtain ⟨v, hrun, h⟩ := h.run_wait n (step_ne_last_of_wait hk hn) hstep
  exact ⟨v, run_trans (run_two hanswer hmove) hrun, h⟩

/-- 41_init_sequencer.md R142, R143: from the frame of step 10 to the completion. -/
theorem InSequence.run_last (h : InSequence s₀ u 10#4 events answers (.answer a :: script) rest) :
    ∃ v, Host.Core.run core 2 (sendFrame cmdReturnHome false u) = .next (completeInit v) ∧
      InSequence s₀ v 10#4 (events ++ txEvents (frameOf cmdReturnHome false) a) (answers ++ [a]) script rest := by
  obtain ⟨m, hanswer, hmove, h⟩ := h.bus_answered cmdReturnHome
  rw [afterInitSend_of_no_wait (b := cmdReturnHome) (h.initStep ▸ rfl), finishInitStep_of_last h.initStep] at hmove
  exact ⟨_, run_two hanswer hmove, h⟩

/-- 10_state.md R21, 41_init_sequencer.md R133: the first move of an INIT whose acceptance has entered the sequence. -/
theorem InSequence.start {w : Word} (hw : w = encode .init) (hphase : s.phase = .uninit)
    (hagenda : s.agenda = .quiet :: answerAgenda script rest) :
    ∃ u, step (accept w s) = .next (issueDelay 50 u) ∧ InSequence (accept w s) u 1#4 [] [] script rest := by
  subst hw
  have hready : (accept (encode .init) s).phase ≠ .ready := by
    simp [startsSequence, decode_encode, hphase]
  refine ⟨enterSequence (passMoment (accept (encode .init) s)), ?_, ?_⟩
  · rw [step_eq_exec ((accept_agenda ..).trans hagenda) (accept_busy ..) (by simp [awaiting]) (accept_cur ..)]
    exact exec_init_of_start hready (accept_pending ..)
  · constructor <;> simp [failures, hagenda, Nat.le_of_lt_succ s.errCount.isLt]

/-- 60_exceptions.md R184: an answered delay counts for its units. -/
theorem answeredUnits_delayEvents (waiting n : Nat) (l : List Event) :
    answeredUnits waiting (delayEvents n ++ l) = n + answeredUnits 0 l := rfl

/-- A transaction counts for nothing, at the end of a log too. -/
theorem answeredUnits_txEvents (waiting : Nat) (f : Frame) (a : BusAnswer) (l : List Event) :
    answeredUnits waiting (txEvents f a ++ l) = answeredUnits 0 l := rfl

theorem answeredUnits_sent (waiting : Nat) (f : Frame) (a : BusAnswer) : answeredUnits waiting (txEvents f a) = 0 := rfl

/-- Settles O23: the acceptance and the first wait, then the ten steps one after the other. -/
theorem initTrace : Obligations.InitTrace := by
  intro s ws rest a2 a3 a4 a5 a6 a7 a8 a9 a10 hbusy hphase hport hagenda fails code trace
  have hunits : delayUnits trace = 60 := by
    simp only [trace, delayUnits, List.append_assoc, answeredUnits_delayEvents, answeredUnits_txEvents, answeredUnits_sent]
  refine ⟨hunits, congrArg (· * Config.timeUnit) hunits, ?_⟩
  have hscript := hagenda.trans (List.append_assoc ..)
  have haccept := step_eq_accept (blockTurn_of_quiet hscript) hbusy hport
  obtain ⟨u, hstart, h⟩ := InSequence.start (w := 0x2000#16) (s := { s with agenda := s.agenda.tail, port := ws })
    (script := [.elapsed, .answer a2, .elapsed, .answer a3, .elapsed, .answer a4, .elapsed, .answer a5, .elapsed,
        .answer a6, .answer a7, .answer a8, .elapsed, .answer a9, .answer a10]) (rest := rest) rfl hphase
        (congrArg List.tail hscript)
  obtain ⟨v2, hrun1, h⟩ := h.run_wait 50 (by decide) rfl
  obtain ⟨v3, hrun2, h⟩ := h.run_send_wait rfl (by decide) rfl
  obtain ⟨v4, hrun3, h⟩ := h.run_send_wait rfl (by decide) rfl
  obtain ⟨v5, hrun4, h⟩ := h.run_send_wait rfl (by decide) rfl
  obtain ⟨v6, hrun5, h⟩ := h.run_send_wait rfl (by decide) rfl
  obtain ⟨v7, hrun6, h⟩ := h.run_send (by decide) rfl rfl
  obtain ⟨v8, hrun7, h⟩ := h.run_send (by decide) rfl rfl
  obtain ⟨v9, hrun8, h⟩ := h.run_send_wait rfl (by decide) rfl
  obtain ⟨v10, hrun9, h⟩ := h.run_send (by decide) rfl rfl
  obtain ⟨t, hrun10, h⟩ := h.run_last
  have hrun := run_trans (run_two haccept hstart) <| run_trans hrun1 <| run_trans hrun2 <| run_trans hrun3 <|
    run_trans hrun4 <| run_trans hrun5 <| run_trans hrun6 <| run_trans hrun7 <| run_trans hrun8 <| run_trans hrun9 hrun10
  have hlog : t.log = s.log ++ [.accepted 0x2000#16] ++ trace := by
    rw [h.log, accept_log, frameOf_functionSet8, frameOf_functionSet4, frameOf_functionSet, frameOf_displayControl,
      frameOf_clearDisplay, frameOf_entryModeSet, frameOf_returnHome, List.nil_append]
  have hany : t.anyFail = decide (fails ≠ 0) := h.anyFail
  have hcode : (if t.anyFail = true then Response.busTransportError else .ok) = code := by
    simp only [hany, decide_eq_true_eq, ne_eq, ite_not, code]
  refine ⟨_, hrun, ?_, rfl, rfl, rfl, rfl, hcode, ?_, ?_, ?_, ?_, ?_⟩
  · rw [completeInit_log, hcode, hlog]
  · exact h.errCount.trans (by rw [accept_errCount]; rfl)
  · exact h.busErr.trans (by rw [accept_busErr]; rfl)
  · exact (completeInit_reqErr t).trans (h.reqErr.trans (accept_reqErr ..))
  · exact h.port.trans (accept_port ..)
  · exact h.agenda

end Sys2Proof.Machine
end

section
/-! PROOFS. Bounded liveness (60_exceptions.md R190): the rounds of answers a request in progress still needs. -/

namespace Sys2Proof.Machine

variable {s t u : State} {rest : List Input}

/-- A request has ended, in READY or refused. -/
def Ended (s : State) : Prop := s.finished = true ∧ (s.phase = .ready ∨ refusesRequest s.lastCause = true)

/-- How a move, made with `p` in flight at step `k`, brings its request on: to its end, or to a call, of the next init step
where it is a transaction of the sequence. -/
inductive Progress (p : Pending) (k : BitVec 4) (t : State) : Prop
  | ended (h : Ended t)
  | starts (hpending : p = .none) (hbusy : t.busy = true) (hcall : t.pending = .busTx) (hk : t.initStep = k)
  | sends (hbusy : t.busy = true) (hcall : t.pending = .busTx) (hk : t.initStep.toNat = k.toNat + 1)
  | waits {n : Nat} (hpending : p ≠ .delayDone) (hbusy : t.busy = true) (hcall : t.pending = .delay n) (hk : t.initStep = k)

theorem ended_of_ready (hbusy : s.busy = false) (hpending : s.pending = .none) (hphase : s.phase = .ready) : Ended s :=
  ⟨by simp [State.finished, hbusy, hpending], .inl hphase⟩

theorem legalMove_progress (hbusy : s.busy = true) (h : LegalMove s t) : Progress s.pending s.initStep t := by
  cases h with
  | refuses hc => exact .ended ⟨rfl, .inr hc⟩
  | sends hword hpending => exact .starts hpending hbusy rfl rfl
  | answers hword hpending hphase => exact .ended (ended_of_ready rfl rfl hphase)
  | begins hword hpending => exact .waits (by simp [hpending]) hbusy rfl rfl
  | waits hword hpending => exact .waits (by simp [hpending]) hbusy rfl rfl
  | advances hword hpending hphase hlast hstep => exact .sends hbusy rfl (initStep_succ_toNat hstep).1
  | completes => exact .ended (ended_of_ready rfl rfl rfl)

/-- At its moment a request that waits for no answer is brought on. -/
theorem step_progress (hinv : s.Inv = true) (hbusy : s.busy = true) (hpending : awaiting s.pending = false)
    (hagenda : s.agenda = .quiet :: rest) :
    ∃ t, step s = .next t ∧ t.Inv = true ∧ t.agenda = rest ∧ Progress s.pending s.initStep t := by
  obtain ⟨t, ht, hmove⟩ := legal_execute (s := passMoment s) hinv hbusy hpending
  have hstep : step s = .next t := (step_eq_execute (blockTurn_of_quiet hagenda) hbusy hpending).trans ht
  have htail : (passMoment s).agenda = rest := by rw [passMoment_agenda, hagenda]; rfl
  have hkept : t.agenda = rest := by
    rw [← htail]
    cases hmove <;> simp
  exact ⟨t, hstep, step_inv hinv hstep, hkept, legalMove_progress (s := passMoment s) hbusy hmove⟩

theorem initStep_le (hinv : s.Inv = true) : s.initStep.toNat ≤ 10 := by
  by_cases hphase : s.phase = .initializing
  · obtain ⟨_, hstep, _⟩ := inv_iff.1 hinv
    exact ((initStepOk_iff.1 hstep).1 hphase).2
  · simp [initStep_eq_zero hinv hphase]

/-- A bound on the rounds of answers the request in progress still needs. -/
def roundsLeft (s : State) : Nat := 10 - s.initStep.toNat + if s.pending = .delayDone then 0 else 1

/-- The first moment of a round ends the request or leaves it at a call. -/
theorem first_moment (hinv : s.Inv = true) (hbusy : s.busy = true) (hagenda : s.agenda = .quiet :: rest) :
    ∃ t, step s = .next t ∧ (Ended t ∨
      (t.Inv = true ∧ t.busy = true ∧ awaiting t.pending = true ∧ t.agenda = rest ∧
        10 - t.initStep.toNat < roundsLeft s)) := by
  have hle := initStep_le hinv
  cases hpending : awaiting s.pending with
  | true =>
    have hstep : step s = .next (passMoment s) := by
      rw [step_of_awaiting hbusy hpending, arrive_of_blockTurn (blockTurn_of_quiet hagenda)]
    have hdone : s.pending ≠ .delayDone := fun h => by simp [h, awaiting] at hpending
    refine ⟨_, hstep, .inr ⟨hinv, hbusy, hpending, by rw [passMoment_agenda, hagenda]; rfl, ?_⟩⟩
    simp [roundsLeft, hdone]
  | false =>
    obtain ⟨t, hstep, hinv', hkept, hprogress⟩ := step_progress hinv hbusy hpending hagenda
    have hle' := initStep_le hinv'
    refine ⟨t, hstep, ?_⟩
    cases hprogress with
    | ended h => exact .inl h
    | starts hnone hbusy' hcall hk =>
      exact .inr ⟨hinv', hbusy', by simp [hcall, awaiting], hkept, by simp [roundsLeft, hnone, hk]⟩
    | sends hbusy' hcall hk =>
      exact .inr ⟨hinv', hbusy', by simp [hcall, awaiting], hkept, by rw [roundsLeft]; omega⟩
    | waits hne hbusy' hcall hk =>
      exact .inr ⟨hinv', hbusy', by simp [hcall, awaiting], hkept, by simp [roundsLeft, hne, hk]⟩

/-- While a delay is pending only the last input of a round does anything. -/
theorem round_of_delay {n : Nat} {a : BusAnswer} (hinv : s.Inv = true) (hpending : s.pending = .delay n)
    (hagenda : s.agenda = .answer a :: .quiet :: .elapsed :: rest) :
    ∃ t, Host.Core.run core 3 s = .next t ∧ t.Inv = true ∧ t.busy = true ∧ t.agenda = rest ∧
      roundsLeft t ≤ 10 - s.initStep.toNat := by
  have hbusy := busy_of_pending hinv (by simp [hpending])
  have hanswer : step s = .next { s with agenda := .quiet :: .elapsed :: rest } := by
    rw [step_eq_takeInput hagenda nofun, takeInput_answer_of_ne]
    simp [hpending]
  have hmoment : step { s with agenda := .quiet :: .elapsed :: rest } = .next { s with agenda := .elapsed :: rest } :=
    step_of_awaiting (s := { s with agenda := .quiet :: .elapsed :: rest }) hbusy (by simp [hpending, awaiting])
  have helapsed := step_eq_delayAnswered (s := { s with agenda := .elapsed :: rest }) hpending rfl
  exact ⟨_, run_trans (run_two hanswer hmoment) (run_succ 0 helapsed),
    delayAnswered_inv (s := { s with agenda := rest }) hinv hpending, hbusy, rfl, le_of_eq rfl⟩

/-- A transaction in flight is answered, and the moment after it ends the request or issues the next call; a delay is
answered too. -/
theorem round_of_busTx {a : BusAnswer} (hinv : s.Inv = true) (hpending : s.pending = .busTx)
    (hagenda : s.agenda = .answer a :: .quiet :: .elapsed :: rest) :
    (∃ t, Host.Core.run core 2 s = .next t ∧ Ended t) ∨
    ∃ t, Host.Core.run core 3 s = .next t ∧ t.Inv = true ∧ t.busy = true ∧ t.agenda = rest ∧
      roundsLeft t ≤ 10 - s.initStep.toNat := by
  have hbusy := busy_of_pending hinv (by simp [hpending])
  have hanswer := step_eq_busAnswered hpending hagenda
  have hinv' := step_inv hinv hanswer
  obtain ⟨t, hmove, hinv'', hkept, hprogress⟩ :=
    step_progress (rest := .elapsed :: rest) hinv' (by simpa using hbusy) (by simp [awaiting]) (busAnswered_agenda ..)
  have hrun := run_two hanswer hmove
  have hle := initStep_le hinv''
  rw [busAnswered_pending, busAnswered_initStep] at hprogress
  cases hprogress with
  | ended h => exact .inl ⟨t, hrun, h⟩
  | starts hnone => cases hnone
  | sends hbusy' hcall hk =>
    have helapsed : step t = .next { t with agenda := rest } := by
      rw [step_eq_takeInput hkept nofun, takeInput_elapsed_of_ne]
      simp [hcall]
    refine .inr ⟨_, run_trans hrun (run_succ 0 helapsed), hinv'', hbusy', rfl, ?_⟩
    dsimp only at hk
    simp only [roundsLeft, hcall, reduceCtorEq, if_false]
    omega
  | waits _ hbusy' hcall hk =>
    have helapsed := step_eq_delayAnswered hcall hkept
    refine .inr ⟨_, run_trans hrun (run_succ 0 helapsed), step_inv hinv'' helapsed, hbusy', rfl, ?_⟩
    simp [roundsLeft, hk]

/-- One round ends the request, or leaves it with fewer rounds to come. -/
theorem round_ends_or_decreases {a : BusAnswer} (hinv : s.Inv = true) (hbusy : s.busy = true)
    (hagenda : s.agenda = .quiet :: .answer a :: .quiet :: .elapsed :: rest) :
    (∃ k t, k ≤ 4 ∧ Host.Core.run core k s = .next t ∧ Ended t) ∨
    ∃ t, Host.Core.run core 4 s = .next t ∧ t.Inv = true ∧ t.busy = true ∧ t.agenda = rest ∧ roundsLeft t < roundsLeft s := by
  obtain ⟨u, hstep, hended | ⟨hinv', hbusy', hwait, hkept, hlt⟩⟩ := first_moment hinv hbusy hagenda
  · exact .inl ⟨1, u, by decide, run_succ 0 hstep, hended⟩
  have hround : (∃ t, Host.Core.run core 2 u = .next t ∧ Ended t) ∨
      ∃ t, Host.Core.run core 3 u = .next t ∧ t.Inv = true ∧ t.busy = true ∧ t.agenda = rest ∧
        roundsLeft t ≤ 10 - u.initStep.toNat := by
    obtain hp | ⟨n, hp⟩ := (awaiting_iff _).1 hwait
    · exact round_of_busTx hinv' hp hkept
    · exact .inr (round_of_delay hinv' hp hkept)
  rcases hround with ⟨t, hrun, hended⟩ | ⟨t, hrun, hinv'', hbusy'', hkept', hle⟩
  · exact .inl ⟨3, t, by decide, (run_succ 2 hstep).trans hrun, hended⟩
  · exact .inr ⟨t, (run_succ 3 hstep).trans hrun, hinv'', hbusy'', hkept', lt_of_le_of_lt hle hlt⟩

/-- Enough rounds of answers end the request. -/
theorem rounds_end (answers : List BusAnswer) (hinv : s.Inv = true) (hbusy : s.busy = true)
    (hrounds : roundsLeft s < answers.length)
    (hagenda : s.agenda = (answers.flatMap fun a => [.quiet, .answer a, .quiet, .elapsed]) ++ rest) :
    ∃ k t, k ≤ 4 * answers.length ∧ Host.Core.run core k s = .next t ∧ Ended t := by
  induction answers generalizing s with
  | nil => cases hrounds
  | cons a answers ih =>
    rw [List.length_cons] at hrounds ⊢
    rcases round_ends_or_decreases hinv hbusy hagenda with ⟨k, t, hk, hrun, hended⟩ | ⟨u, hrun, hinv', hbusy', hkept, hlt⟩
    · exact ⟨k, t, by omega, hrun, hended⟩
    · obtain ⟨k, t, hk, hrun', hended⟩ := ih hinv' hbusy' (by omega) hkept
      exact ⟨4 + k, t, by omega, run_trans hrun hrun', hended⟩

/-- Settles O51: a request in progress needs at most eleven rounds (`roundsLeft`), and sixteen are to come. -/
theorem answeredRequestsEnd : Obligations.AnsweredRequestsEnd := by
  intro s answers rest hinv hbusy hlength hagenda
  have hrounds : roundsLeft s < answers.length := by
    rw [roundsLeft, hlength]
    split <;> omega
  obtain ⟨k, t, hk, hrun, hfinished, hend⟩ := rounds_end answers hinv hbusy hrounds hagenda
  exact ⟨k, t, by omega, hrun, hfinished, hend⟩

end Sys2Proof.Machine
end
